-- ==== Sys2Proof/Word.lean ====
section
/-! DEFINITION. The words of the machine: widths only. Spec: 00_scope.md R2, R6, R10, R11; 20_memory.md R62. -/

namespace Sys2Proof

/-- A machine word: 16 bits, bit 0 the least significant (R2, R10). -/
abbrev Word := BitVec 16

/-- Half a word; the left byte is bits 15-8 of a word, the right byte bits 7-0 (R10). -/
abbrev Byte := BitVec 8

/-- A physical word address: bank (bits 23-16) and address within bank (bits 15-0) (R62). -/
abbrev PhysAddr := BitVec 24

/-- A program level, 0 (lowest priority) to 15 (highest) (R34, R441). -/
abbrev Level := BitVec 4

end Sys2Proof
end

