-- ==== Sys2Proof/Config.lean ====
section
/-! DEFINITION. What an implementation fixes (the plain-data parameters of 00_scope.md R9, gathered in `Params`) and the free
values: constants without a body, of which nothing can be proved. The parameter functions that read a whole state
(`Translate`, `PrivOK`, the decimal and SINTRAN bodies, the host's answers) are in Machine/Parameters.lean. -/

namespace Sys2Proof

/-- `CPU_MODEL` (R8). -/
inductive CpuModel where
  | nd100
  | nd110
deriving DecidableEq, Repr, Inhabited

/-- `INIT_LAYOUT` (R413, D51): where `INIT` finds its in-line words and its two continuations, as offsets from the address
of the instruction. -/
structure InitLayout where
  start       : Word
  size        : Word
  flag        : Word
  demand      : Word
  errorReturn : Word
  normal      : Word
deriving DecidableEq, Repr, Inhabited

/-- `StackOverflow` (R412, D50): the spec's default test, or another one (log 22). -/
inductive StackTest where
  /-- the unwrapped 17-bit STP is greater than SMAX -/
  | exceedsSmax
  /-- `Config.stackOverflow`, of which nothing is known -/
  | other
deriving DecidableEq, Repr, Inhabited

/-- `OPC_<mnemonic>` (R9, R107, R109, R110; D32, D33): the opcode values the spec makes arguments of a model. The eight of
the table-bank family and `srb` are bases, to which 10₈ times Δ or the level is added. -/
structure Opcodes where
  addd         : Word
  subd         : Word
  comd         : Word
  tset         : Word
  pack         : Word
  upack        : Word
  shde         : Word
  rdus         : Word
  bfill        : Word
  movb         : Word
  movbf        : Word
  versn        : Word
  init         : Word
  entr         : Word
  leave        : Word
  eleav        : Word
  setpt        : Word
  clept        : Word
  clnreent     : Word
  chreentpages : Word
  clepu        : Word
  wglob        : Word
  rglob        : Word
  inspl        : Word
  rempl        : Word
  cnrek        : Word
  clpt         : Word
  enpt         : Word
  rept         : Word
  lbit         : Word
  sbit         : Word
  lbitp        : Word
  sbitp        : Word
  lbytp        : Word
  sbytp        : Word
  tsetp        : Word
  rdusp        : Word
  lasb         : Word
  sasb         : Word
  lacb         : Word
  sacb         : Word
  lxsb         : Word
  lxcb         : Word
  szsb         : Word
  szcb         : Word
  geco         : Word
  srb          : Word
deriving DecidableEq, Repr, Inhabited

/-- The parameters of R9 that are plain data. They stand in State (log 6): every statement about all states is a statement
about all their values, and no step changes them. -/
structure Params where
  /-- `CPU_MODEL` -/
  cpuModel         : CpuModel
  /-- `FLOAT48` (R7): accumulator T, A, D and three-word operands when true; A, D and two words when false -/
  float48          : Bool
  /-- `PHYS_WORDS` (R63): installed physical memory, in words -/
  physWords        : Nat
  /-- `SKP_WRITES_STS` (R406) -/
  skpWritesSts     : Bool
  /-- `JAP_ZERO_JUMPS` (R383) -/
  japZeroJumps     : Bool
  /-- `INIT_MODELLED` (R413) -/
  initModelled     : Bool
  /-- `INIT_LAYOUT` (R413) -/
  initLayout       : InitLayout
  /-- `BYTE_LEN_BITS` (R193) -/
  byteLenBits      : Nat
  /-- `BITARRAY_MSB_FIRST` (R203) -/
  bitArrayMsbFirst : Bool
  /-- `StackOverflow` (R412) -/
  stackTest        : StackTest
  /-- `OPC_<mnemonic>` (R107) -/
  opcodes          : Opcodes
deriving DecidableEq, Repr, Inhabited

namespace Config

/-- The layout of general knowledge item G12 (R413): start P+1, size P+2, flag P+3, unused P+4, demand P+5, error return
P+6, normal continuation P+7. -/
def defaultInitLayout : InitLayout :=
  { start := 1, size := 2, flag := 3, demand := 5, errorReturn := 6, normal := 7 }

/-- The default opcode values of R109 and R110 (D32, D33; log 14). -/
def defaultOpcodes : Opcodes :=
  { addd := 0o140120, subd := 0o140121, comd := 0o140122, tset := 0o140123, pack := 0o140124
    upack := 0o140125, shde := 0o140126, rdus := 0o140127, bfill := 0o140130, movb := 0o140131
    movbf := 0o140132, versn := 0o140133, init := 0o140134, entr := 0o140135, leave := 0o140136
    eleav := 0o140137, setpt := 0o140300, clept := 0o140301, clnreent := 0o140302, chreentpages := 0o140303
    clepu := 0o140304, wglob := 0o140500, rglob := 0o140501, inspl := 0o140502, rempl := 0o140503
    cnrek := 0o140504, clpt := 0o140505, enpt := 0o140506, rept := 0o140507, lbit := 0o140510
    sbit := 0o140511, lbitp := 0o140512, sbitp := 0o140513, lbytp := 0o140514, sbytp := 0o140515
    tsetp := 0o140516, rdusp := 0o140517, lasb := 0o140700, sasb := 0o140701, lacb := 0o140702
    sacb := 0o140703, lxsb := 0o140704, lxcb := 0o140705, szsb := 0o140706, szcb := 0o140707, geco := 0o142700
    srb := 0o152602 }

/-- The defaults of 93_implementation_defined.md section 3. DESIGN CHOICE (log 6) for the two the spec gives no default:
`FLOAT48` is true and `PHYS_WORDS` is the whole 24-bit space. -/
def defaultParams : Params :=
  { cpuModel := .nd110
    float48 := true
    physWords := 2 ^ 24
    skpWritesSts := false
    japZeroJumps := false
    initModelled := true
    initLayout := defaultInitLayout
    byteLenBits := 12
    bitArrayMsbFirst := false
    stackTest := .exceedsSmax
    opcodes := defaultOpcodes }

/-- `RESET_P` (R56, R481): the spec gives no default. DESIGN CHOICE 0 (log 3). -/
def resetP : Word := 0

/-- The n-th drawn word: the `any value` of R40, R46, R31, R263, R358, R430 (log 7). -/
opaque freeWord : Nat → Word

/-- The n-th drawn bit: the `any value` of a flag (R357, R358; log 7). -/
opaque freeBit : Nat → Bool

/-- `VERSION_A` (R430): what `VERSN` loads into A. -/
opaque versionA : Word

/-- `VERSION_T` (R430): what `VERSN` loads into T. -/
opaque versionT : Word

/-- `INSTALLATION` (R430): the sixteen installation-number bytes. -/
opaque installation : BitVec 4 → Byte

/-- `InitFlagError` (R413, D51): what `INIT` takes as a flag error. -/
opaque initFlagError : Word → Bool

/-- Another `StackOverflow` than the default (R412, D50): the unwrapped STP and SMAX. -/
opaque stackOverflow : Nat → Word → Bool

end Config

/-- A floating accumulator or operand: the words of T, A, D in the 48-bit format; in the 32-bit format `t` takes no part
(R7, R22, R420). -/
structure Acc where
  t : Word
  a : Word
  d : Word
deriving DecidableEq, Repr, Inhabited

namespace Config

/-- `FAdd` (R420): FLOAT48, TG, accumulator, operand ↦ new accumulator, error. -/
opaque fAdd : Bool → Bool → Acc → Acc → Acc × Bool

/-- `FSub` (R420). -/
opaque fSub : Bool → Bool → Acc → Acc → Acc × Bool

/-- `FMul` (R420). -/
opaque fMul : Bool → Bool → Acc → Acc → Acc × Bool

/-- `FDiv` (R420, R426). -/
opaque fDiv : Bool → Bool → Acc → Acc → Acc × Bool

/-- Which operands are zero in the unstated number format: part of `FDiv` (R426; log 13). -/
opaque fIsZero : Bool → Acc → Bool

/-- `Nlz48(A, s)` (R262): T, A, D. -/
opaque nlz48 : Word → Byte → Acc

/-- `Nlz32(A, s)` (R262): A and D. -/
opaque nlz32 : Word → Byte → Word × Word

/-- `Dnz(FLOAT48, T, A, D, s)` (R263): the fixed-point word and whether the conversion overflowed. -/
opaque dnz : Bool → Word → Word → Word → Byte → Word × Bool

/-- Which conversions underflow: part of `Dnz`, of the same arguments (R263, log 13). -/
opaque dnzUnderflow : Bool → Word → Word → Word → Byte → Bool

end Config

end Sys2Proof
end

