-- ==== Sys2Proof/Syntax.lean ====
section
/-! DEFINITION. The instructions, one constructor per row of spec/opcode_table.json, in the table's order. Formats:
30_encoding.md R91 to R104. Every operand bit of an encoding stands in the constructor, also the bits the hardware ignores
(`EXR`, `RDIV`: the dr field), so that a word is recovered from its instruction. -/

namespace Sys2Proof

/-- A 3-bit register field (R16, R20). Code 0 is STS in the bit instructions and in `IRR`/`IRW`; it is the constant zero as a
source and "no destination" in the register operations, `SKP`, `RMPY`, `RDIV` (R341, R343, R403). -/
inductive RegField where
  | code0
  | d
  | p
  | b
  | l
  | a
  | t
  | x
deriving DecidableEq, Repr, Inhabited

/-- The operand of format MEM (R91): the three mode bits and the signed displacement. -/
structure MemOperand where
  /-- bit 10, "Index register flag" -/
  x    : Bool
  /-- bit 9, "Indirect addressing flag" -/
  i    : Bool
  /-- bit 8, "Base register flag" -/
  b    : Bool
  /-- bits 7-0, two's complement -/
  disp : Byte
deriving DecidableEq, Repr, Inhabited

/-- The eight conditions of `SKP`, bits 10-8 (R404). -/
inductive SkipCond where
  | eql
  | geq
  | gre
  | mgre
  | ueq
  | lss
  | lst
  | mlst
deriving DecidableEq, Repr, Inhabited

/-- The shift types, bits 10-9 (R96, R395): arithmetic, `ROT`, `ZIN`, `LIN`. -/
inductive ShiftType where
  | arith
  | rot
  | zin
  | lin
deriving DecidableEq, Repr, Inhabited

/-- The instruction set. The last word before the format is the rule of spec/ that gives the instruction its meaning. -/
inductive Instr where
  /-- `STZ` (R310, format MEM) -/
  | stz (m : MemOperand)
  /-- `STA` (R307, format MEM) -/
  | sta (m : MemOperand)
  /-- `STT` (R308, format MEM) -/
  | stt (m : MemOperand)
  /-- `STX` (R309, format MEM) -/
  | stx (m : MemOperand)
  /-- `STD` (R302, format MEM) -/
  | std (m : MemOperand)
  /-- `LDD` (R301, format MEM) -/
  | ldd (m : MemOperand)
  /-- `STF` (R422, format MEM) -/
  | stf (m : MemOperand)
  /-- `LDF` (R421, format MEM) -/
  | ldf (m : MemOperand)
  /-- `MIN` (R306, format MEM) -/
  | min (m : MemOperand)
  /-- `LDA` (R303, format MEM) -/
  | lda (m : MemOperand)
  /-- `LDT` (R304, format MEM) -/
  | ldt (m : MemOperand)
  /-- `LDX` (R305, format MEM) -/
  | ldx (m : MemOperand)
  /-- `ADD` (R141, format MEM) -/
  | add (m : MemOperand)
  /-- `SUB` (R142, format MEM) -/
  | sub (m : MemOperand)
  /-- `AND` (R143, format MEM) -/
  | and (m : MemOperand)
  /-- `ORA` (R144, format MEM) -/
  | ora (m : MemOperand)
  /-- `FAD` (R423, format MEM) -/
  | fad (m : MemOperand)
  /-- `FSB` (R424, format MEM) -/
  | fsb (m : MemOperand)
  /-- `FMU` (R425, format MEM) -/
  | fmu (m : MemOperand)
  /-- `FDV` (R426, format MEM) -/
  | fdv (m : MemOperand)
  /-- `MPY` (R145, format MEM) -/
  | mpy (m : MemOperand)
  /-- `JMP` (R389, format MEM) -/
  | jmp (m : MemOperand)
  /-- `JPL` (R390, format MEM) -/
  | jpl (m : MemOperand)
  /-- `JAP` (R383, format BYTE8) -/
  | jap (disp : Byte)
  /-- `JAN` (R382, format BYTE8) -/
  | jan (disp : Byte)
  /-- `JAZ` (R384, format BYTE8) -/
  | jaz (disp : Byte)
  /-- `JAF` (R381, format BYTE8) -/
  | jaf (disp : Byte)
  /-- `JPC` (R386, format BYTE8) -/
  | jpc (disp : Byte)
  /-- `JNC` (R385, format BYTE8) -/
  | jnc (disp : Byte)
  /-- `JXZ` (R388, format BYTE8) -/
  | jxz (disp : Byte)
  /-- `JXN` (R387, format BYTE8) -/
  | jxn (disp : Byte)
  /-- `SKP` (R405, format SKP) -/
  | skp (cond : SkipCond) (sr dr : RegField)
  /-- `ADDD` (R245, format FIXED) -/
  | addd
  /-- `SUBD` (R246, format FIXED) -/
  | subd
  /-- `COMD` (R247, format FIXED) -/
  | comd
  /-- `TSET` (R291, format FIXED) -/
  | tset
  /-- `PACK` (R248, format FIXED) -/
  | pack
  /-- `UPACK` (R249, format FIXED) -/
  | upack
  /-- `SHDE` (R250, format FIXED) -/
  | shde
  /-- `RDUS` (R290, format FIXED) -/
  | rdus
  /-- `BFILL` (R194, format FIXED) -/
  | bfill
  /-- `MOVB` (R195, format FIXED) -/
  | movb
  /-- `MOVBF` (R196, format FIXED) -/
  | movbf
  /-- `VERSN` (R430, format FIXED) -/
  | versn
  /-- `INIT` (R413, format FIXED) -/
  | init
  /-- `ENTR` (R412, format FIXED) -/
  | entr
  /-- `LEAVE` (R414, format FIXED) -/
  | leave
  /-- `ELEAV` (R415, format FIXED) -/
  | eleav
  /-- `SETPT` (R211, format FIXED) -/
  | setpt
  /-- `CLEPT` (R212, format FIXED) -/
  | clept
  /-- `CLNREENT` (R215, format FIXED) -/
  | clnreent
  /-- `CHREENTPAGES` (R214, format FIXED) -/
  | chreentpages
  /-- `CLEPU` (R213, format FIXED) -/
  | clepu
  /-- `WGLOB` (R201, format FIXED) -/
  | wglob
  /-- `RGLOB` (R202, format FIXED) -/
  | rglob
  /-- `INSPL` (R219, format FIXED) -/
  | inspl
  /-- `REMPL` (R220, format FIXED) -/
  | rempl
  /-- `CNREK` (R217, format FIXED) -/
  | cnrek
  /-- `CLPT` (R216, format FIXED) -/
  | clpt
  /-- `ENPT` (R218, format FIXED) -/
  | enpt
  /-- `REPT` (R221, format FIXED) -/
  | rept
  /-- `LBIT` (R204, format FIXED) -/
  | lbit
  /-- `SBIT` (R205, format FIXED) -/
  | sbit
  /-- `LBITP` (R206, format FIXED) -/
  | lbitp
  /-- `SBITP` (R207, format FIXED) -/
  | sbitp
  /-- `LBYTP` (R208, format FIXED) -/
  | lbytp
  /-- `SBYTP` (R209, format FIXED) -/
  | sbytp
  /-- `TSETP` (R231, format FIXED) -/
  | tsetp
  /-- `RDUSP` (R210, format FIXED) -/
  | rdusp
  /-- `GECO` (R431, format FIXED) -/
  | geco
  /-- `EXR` (R260, format REG6) -/
  | exr (sr dr : RegField)
  /-- `LASB` (R226, format DELTA) -/
  | lasb (delta : BitVec 3)
  /-- `SASB` (R227, format DELTA) -/
  | sasb (delta : BitVec 3)
  /-- `LACB` (R228, format DELTA) -/
  | lacb (delta : BitVec 3)
  /-- `SACB` (R229, format DELTA) -/
  | sacb (delta : BitVec 3)
  /-- `LXSB` (R230, format DELTA) -/
  | lxsb (delta : BitVec 3)
  /-- `LXCB` (R232, format DELTA) -/
  | lxcb (delta : BitVec 3)
  /-- `SZSB` (R233, format DELTA) -/
  | szsb (delta : BitVec 3)
  /-- `SZCB` (R234, format DELTA) -/
  | szcb (delta : BitVec 3)
  /-- `RMPY` (R357, format REG6) -/
  | rmpy (sr dr : RegField)
  /-- `RDIV` (R358, format REG6) -/
  | rdiv (sr dr : RegField)
  /-- `LBYT` (R191, format FIXED) -/
  | lbyt
  /-- `SBYT` (R192, format FIXED) -/
  | sbyt
  /-- `MOVEW` (R432, format MOVEW) -/
  | movew (ty : BitVec 6)
  /-- `MIX3` (R359, format FIXED) -/
  | mix3
  /-- `LDATX` (R317, format DELTA) -/
  | ldatx (delta : BitVec 3)
  /-- `LDXTX` (R318, format DELTA) -/
  | ldxtx (delta : BitVec 3)
  /-- `LDDTX` (R320, format DELTA) -/
  | lddtx (delta : BitVec 3)
  /-- `LDBTX` (R319, format DELTA) -/
  | ldbtx (delta : BitVec 3)
  /-- `STATX` (R321, format DELTA) -/
  | statx (delta : BitVec 3)
  /-- `STZTX` (R322, format DELTA) -/
  | stztx (delta : BitVec 3)
  /-- `STDTX` (R323, format DELTA) -/
  | stdtx (delta : BitVec 3)
  /-- `LWCS` (R330, format FIXED) -/
  | lwcs
  /-- `IDENT` (R276, format IDENT) -/
  | ident (code : BitVec 6)
  /-- `SWAP` (R355, format ROP) -/
  | swap (cm1 cld : Bool) (sr dr : RegField)
  /-- `RAND` (R352, format ROP) -/
  | rand (cm1 cld : Bool) (sr dr : RegField)
  /-- `REXO` (R353, format ROP) -/
  | rexo (cm1 cld : Bool) (sr dr : RegField)
  /-- `RORA` (R354, format ROP) -/
  | rora (cm1 cld : Bool) (sr dr : RegField)
  /-- `RADD` (R344, format ROP) -/
  | radd (adc ad1 cm1 cld : Bool) (sr dr : RegField)
  /-- `COPY` (R346, format ROP) -/
  | copy (adc ad1 cm1 : Bool) (sr dr : RegField)
  /-- `RSUB` (R347, format ROP) -/
  | rsub (cld : Bool) (sr dr : RegField)
  /-- `RINC` (R348, format ROP) -/
  | rinc (dr : RegField)
  /-- `RDCR` (R349, format ROP) -/
  | rdcr (dr : RegField)
  /-- `RCLR` (R350, format ROP) -/
  | rclr (dr : RegField)
  /-- `EXIT` (R351, format ROP) -/
  | exit
  /-- `TRA` (R372, format IREG) -/
  | tra (n : BitVec 4)
  /-- `TRR` (R373, format IREG) -/
  | trr (n : BitVec 4)
  /-- `MCL` (R371, format IREG) -/
  | mcl (n : BitVec 4)
  /-- `MST` (R370, format IREG) -/
  | mst (n : BitVec 4)
  /-- `OPCOM` (R279, format FIXED) -/
  | opcom
  /-- `IOF` (R277, format FIXED) -/
  | iof
  /-- `ION` (R278, format FIXED) -/
  | ion
  /-- `POF` (R280, format FIXED) -/
  | pof
  /-- `PIOF` (R293, format FIXED) -/
  | piof
  /-- `SEX` (R297, format FIXED) -/
  | sex
  /-- `REX` (R296, format FIXED) -/
  | rex
  /-- `PON` (R295, format FIXED) -/
  | pon
  /-- `PION` (R294, format FIXED) -/
  | pion
  /-- `IOXT` (R266, format FIXED) -/
  | ioxt
  /-- `EXAM` (R329, format FIXED) -/
  | exam
  /-- `DEPO` (R328, format FIXED) -/
  | depo
  /-- `WAIT` (R281, format BYTE8) -/
  | wait (n : Byte)
  /-- `NLZ` (R262, format BYTE8) -/
  | nlz (scale : Byte)
  /-- `DNZ` (R263, format BYTE8) -/
  | dnz (scale : Byte)
  /-- `SRB` (R333, format LVL) -/
  | srb (level : Level)
  /-- `LRB` (R332, format LVL) -/
  | lrb (level : Level)
  /-- `MON` (R326, format BYTE8) -/
  | mon (n : Byte)
  /-- `IRW` (R273, format LVL) -/
  | irw (level : Level) (r : RegField)
  /-- `IRR` (R272, format LVL) -/
  | irr (level : Level) (r : RegField)
  /-- `SHT` (R396, format SHIFT) -/
  | sht (ty : ShiftType) (count : BitVec 6)
  /-- `SHD` (R397, format SHIFT) -/
  | shd (ty : ShiftType) (count : BitVec 6)
  /-- `SHA` (R398, format SHIFT) -/
  | sha (ty : ShiftType) (count : BitVec 6)
  /-- `SAD` (R399, format SHIFT) -/
  | sad (ty : ShiftType) (count : BitVec 6)
  /-- `IOT` (R267, format IOX) -/
  | iot (addr : BitVec 11)
  /-- `IOX` (R265, format IOX) -/
  | iox (addr : BitVec 11)
  /-- `SAB` (R132, format BYTE8) -/
  | sab (arg : Byte)
  /-- `SAA` (R131, format BYTE8) -/
  | saa (arg : Byte)
  /-- `SAT` (R133, format BYTE8) -/
  | sat (arg : Byte)
  /-- `SAX` (R134, format BYTE8) -/
  | sax (arg : Byte)
  /-- `AAB` (R136, format BYTE8) -/
  | aab (arg : Byte)
  /-- `AAA` (R135, format BYTE8) -/
  | aaa (arg : Byte)
  /-- `AAT` (R137, format BYTE8) -/
  | aat (arg : Byte)
  /-- `AAX` (R138, format BYTE8) -/
  | aax (arg : Byte)
  /-- `BSET ZRO` (R154, format BIT) -/
  | bsetZro (bn : BitVec 4) (dr : RegField)
  /-- `BSET ONE` (R155, format BIT) -/
  | bsetOne (bn : BitVec 4) (dr : RegField)
  /-- `BSET BCM` (R156, format BIT) -/
  | bsetBcm (bn : BitVec 4) (dr : RegField)
  /-- `BSET BAC` (R157, format BIT) -/
  | bsetBac (bn : BitVec 4) (dr : RegField)
  /-- `BSKP ZRO` (R158, format BIT) -/
  | bskpZro (bn : BitVec 4) (dr : RegField)
  /-- `BSKP ONE` (R159, format BIT) -/
  | bskpOne (bn : BitVec 4) (dr : RegField)
  /-- `BSKP BCM` (R160, format BIT) -/
  | bskpBcm (bn : BitVec 4) (dr : RegField)
  /-- `BSKP BAC` (R161, format BIT) -/
  | bskpBac (bn : BitVec 4) (dr : RegField)
  /-- `BSTC` (R162, format BIT) -/
  | bstc (bn : BitVec 4) (dr : RegField)
  /-- `BSTA` (R163, format BIT) -/
  | bsta (bn : BitVec 4) (dr : RegField)
  /-- `BLDC` (R164, format BIT) -/
  | bldc (bn : BitVec 4) (dr : RegField)
  /-- `BLDA` (R165, format BIT) -/
  | blda (bn : BitVec 4) (dr : RegField)
  /-- `BANC` (R166, format BIT) -/
  | banc (bn : BitVec 4) (dr : RegField)
  /-- `BAND` (R167, format BIT) -/
  | band (bn : BitVec 4) (dr : RegField)
  /-- `BORC` (R168, format BIT) -/
  | borc (bn : BitVec 4) (dr : RegField)
  /-- `BORA` (R169, format BIT) -/
  | bora (bn : BitVec 4) (dr : RegField)
deriving DecidableEq, Repr

end Sys2Proof
end

