-- ==== Sys2Proof/WellFormed.lean ====
section
/-! DEFINITION. Which operand values the spec defines: the rest are its reserved operands (30_encoding.md R114) and the
unassigned transfer types of `MOVEW` (R103). An ill-formed instruction still encodes and decodes; executing it faults by
name (60_exceptions.md R462, R464). -/

namespace Sys2Proof

/-- R153: of STS only bits 0 to 7 can be addressed. -/
def bitOperandOk (bn : BitVec 4) (dr : RegField) : Bool :=
  dr != .code0 || bn < 8#4

/-- R372: every internal register number but 16₈ can be read. -/
def traOk (n : BitVec 4) : Bool := n != 0o16#4

/-- R373: 4, 14₈ and 16₈ are not listed for `TRR`. -/
def trrOk (n : BitVec 4) : Bool := n != 0o4#4 && n != 0o14#4 && n != 0o16#4

/-- R370, R371: `MST` and `MCL` accept STS (1), PID (6) and PIE (7). -/
def maskedOk (n : BitVec 4) : Bool := n == 1#4 || n == 6#4 || n == 7#4

/-- R276: the level codes of PL10, PL11, PL12 and PL13. -/
def identOk (code : BitVec 6) : Bool :=
  code == 0o04#6 || code == 0o11#6 || code == 0o22#6 || code == 0o43#6

/-- R260: `EXR` names D, B, L, A, T or X. -/
def exrOk (sr : RegField) : Bool := sr != .code0 && sr != .p

/-- R432: the transfer types of `MOVEW` are 00₈ to 10₈. -/
def movewOk (ty : BitVec 6) : Bool := ty ≤ 0o10#6

/-- The operand checks, one line per instruction that has one. -/
def Instr.wf : Instr → Bool
  | .bsetZro bn dr | .bsetOne bn dr | .bsetBcm bn dr | .bsetBac bn dr => bitOperandOk bn dr
  | .bskpZro bn dr | .bskpOne bn dr | .bskpBcm bn dr | .bskpBac bn dr => bitOperandOk bn dr
  | .bstc bn dr | .bsta bn dr | .bldc bn dr | .blda bn dr => bitOperandOk bn dr
  | .banc bn dr | .band bn dr | .borc bn dr | .bora bn dr => bitOperandOk bn dr
  | .tra n => traOk n
  | .trr n => trrOk n
  | .mst n => maskedOk n
  | .mcl n => maskedOk n
  | .ident code => identOk code
  | .exr sr _ => exrOk sr
  | .movew ty => movewOk ty
  | _ => true

end Sys2Proof
end

