-- ==== Sys2Proof/Decode.lean ====
section
/-! DEFINITION. Decoding and encoding. Formats: 30_encoding.md R91 to R104; opcode values: R108 to R110, of which those the
spec tags P are the argument `Opcodes` (R107, log 14); decoding rule: R111; unassigned words: R112. `decodeWord` is total and refuses by
name; the encoder is written from the same tables. The six assembler names of `RADD` words (R125) encode and decode as `RADD`
(R111, log 15). -/

namespace Sys2Proof

/-! ## Operand fields -/

/-- The 3-bit code of a register field (R16, R20). -/
def RegField.bits : RegField → BitVec 3
  | .code0 => 0 | .d => 1 | .p => 2 | .b => 3 | .l => 4 | .a => 5 | .t => 6 | .x => 7

/-- The register field of a 3-bit code. -/
def RegField.ofBits (c : BitVec 3) : RegField :=
  match c.toNat with
  | 0 => .code0 | 1 => .d | 2 => .p | 3 => .b | 4 => .l | 5 => .a | 6 => .t | _ => .x

/-- The condition field of `SKP`, bits 10-8 (R404). -/
def SkipCond.bits : SkipCond → BitVec 3
  | .eql => 0 | .geq => 1 | .gre => 2 | .mgre => 3 | .ueq => 4 | .lss => 5 | .lst => 6 | .mlst => 7

/-- The condition of a 3-bit code. -/
def SkipCond.ofBits (c : BitVec 3) : SkipCond :=
  match c.toNat with
  | 0 => .eql | 1 => .geq | 2 => .gre | 3 => .mgre | 4 => .ueq | 5 => .lss | 6 => .lst | _ => .mlst

/-- The shift type field, bits 10-9 (R96). -/
def ShiftType.bits : ShiftType → BitVec 2
  | .arith => 0 | .rot => 1 | .zin => 2 | .lin => 3

/-- The shift type of a 2-bit code. -/
def ShiftType.ofBits (c : BitVec 2) : ShiftType :=
  match c.toNat with
  | 0 => .arith | 1 => .rot | 2 => .zin | _ => .lin

/-- Bits 10-0 of a MEM word: X, I, B, displacement (R91). -/
def MemOperand.bits (m : MemOperand) : BitVec 11 :=
  (BitVec.ofBool m.x ++ (BitVec.ofBool m.i ++ BitVec.ofBool m.b)) ++ m.disp

/-- The MEM operand of bits 10-0. -/
def MemOperand.ofBits (r : BitVec 11) : MemOperand :=
  { x := r.getLsbD 10, i := r.getLsbD 9, b := r.getLsbD 8, disp := r.extractLsb' 0 8 }

/-- Bits 15-11 of a word. -/
def opOf (w : Word) : BitVec 5 := w.extractLsb' 11 5

/-- Bits 10-0 of a word. -/
def restOf (w : Word) : BitVec 11 := w.extractLsb' 0 11

/-- Bits 10-8: the subgroup of formats BYTE8, SKP and the system group. -/
def sub3 (r : BitVec 11) : BitVec 3 := r.extractLsb' 8 3

/-- Bits 7-0. -/
def low8 (r : BitVec 11) : Byte := r.extractLsb' 0 8

/-- Bits 10-6: the subgroup of the extended instructions (R109). -/
def key5 (r : BitVec 11) : BitVec 5 := r.extractLsb' 6 5

/-- Bits 5-0. -/
def low6 (r : BitVec 11) : BitVec 6 := r.extractLsb' 0 6

/-- Bits 5-3, the source register or Δ. -/
def mid3 (r : BitVec 6) : BitVec 3 := r.extractLsb' 3 3

/-- Bits 2-0, the destination register or type. -/
def low3 (r : BitVec 6) : BitVec 3 := r.extractLsb' 0 3

/-- The register field in bits 5-3. -/
def srOf (r : BitVec 6) : RegField := RegField.ofBits (mid3 r)

/-- The register field in bits 2-0. -/
def drOf (r : BitVec 6) : RegField := RegField.ofBits (low3 r)

/-- Bits 7-4 of a word's low byte. -/
def high4 (b : Byte) : BitVec 4 := b.extractLsb' 4 4

/-- Bits 3-0, the internal register number (R99). -/
def low4 (b : Byte) : BitVec 4 := b.extractLsb' 0 4

/-- Bit 7 of a LVL word. -/
def bit7 (b : Byte) : BitVec 1 := b.extractLsb' 7 1

/-- Bits 6-3: the program level of format LVL (R98) and bn of format BIT (R93). -/
def levelOf (b : Byte) : BitVec 4 := b.extractLsb' 3 4

/-- Bits 2-0 of a word's low byte. -/
def type3 (b : Byte) : BitVec 3 := b.extractLsb' 0 3

/-! ## Decoding -/

/-- Why a word is no instruction (R112). -/
inductive DecodeError where
  /-- fewer than two bytes were given -/
  | truncated
  /-- a word of 140000₈-143777₈ with bits 7-6 not 00 that R109 does not list -/
  | unassignedExtended (w : Word)
  /-- a word of 150000₈-153777₈ that R110 does not list -/
  | unassignedSystem (w : Word)
  /-- a shift word with bit 6 set (R96) -/
  | shiftBitSix (w : Word)
deriving DecidableEq, Repr

/-- 1433Δn, the physical transfer family (R101, R316). -/
def decodeTx (w : Word) (r : BitVec 6) : Except DecodeError Instr :=
  match (low3 r).toNat with
  | 0 => .ok (.ldatx (mid3 r))
  | 1 => .ok (.ldxtx (mid3 r))
  | 2 => .ok (.lddtx (mid3 r))
  | 3 => .ok (.ldbtx (mid3 r))
  | 4 => .ok (.statx (mid3 r))
  | 5 => .ok (.stztx (mid3 r))
  | 6 => .ok (.stdtx (mid3 r))
  | _ => .error (.unassignedExtended w)

/-- A word with all six low bits fixed at zero (LBYT, SBYT, MIX3, LWCS). -/
def decodeExact (w : Word) (r : BitVec 6) (i : Instr) : Except DecodeError Instr :=
  if r = 0 then .ok i else .error (.unassignedExtended w)

/-- 140000₈ to 143777₈: `SKP` when bits 7-6 are 00 (R95), else the extended instructions with a
fixed opcode (R109). -/
def decodeExtended (w : Word) (r : BitVec 11) : Except DecodeError Instr :=
  match (key5 r).toNat with
  | 0 | 4 | 8 | 12 | 16 | 20 | 24 | 28 =>
    .ok (.skp (SkipCond.ofBits (sub3 r)) (srOf (low6 r)) (drOf (low6 r)))
  | 6 => .ok (.exr (srOf (low6 r)) (drOf (low6 r)))
  | 10 => .ok (.rmpy (srOf (low6 r)) (drOf (low6 r)))
  | 14 => .ok (.rdiv (srOf (low6 r)) (drOf (low6 r)))
  | 18 => decodeExact w (low6 r) .lbyt
  | 22 => decodeExact w (low6 r) .sbyt
  | 25 => .ok (.movew (low6 r))
  | 26 => decodeExact w (low6 r) .mix3
  | 27 => decodeTx w (low6 r)
  | 29 => decodeExact w (low6 r) .lwcs
  | 30 => .ok (.ident (low6 r))
  | _ => .error (.unassignedExtended w)

/-- 144000₈ to 147777₈, format ROP (R94): bit 10 is rad, bits 9-8 the operation or ADC and AD1. -/
def decodeRop (r : BitVec 11) : Instr :=
  match (sub3 r).toNat with
  | 0 => .swap (r.getLsbD 7) (r.getLsbD 6) (srOf (low6 r)) (drOf (low6 r))
  | 1 => .rand (r.getLsbD 7) (r.getLsbD 6) (srOf (low6 r)) (drOf (low6 r))
  | 2 => .rexo (r.getLsbD 7) (r.getLsbD 6) (srOf (low6 r)) (drOf (low6 r))
  | 3 => .rora (r.getLsbD 7) (r.getLsbD 6) (srOf (low6 r)) (drOf (low6 r))
  | _ => .radd (r.getLsbD 9) (r.getLsbD 8) (r.getLsbD 7) (r.getLsbD 6) (srOf (low6 r)) (drOf (low6 r))

/-- 150000₈ to 150377₈, format IREG (R99). -/
def decodeIreg (w : Word) (b : Byte) : Except DecodeError Instr :=
  match (high4 b).toNat with
  | 0 => .ok (.tra (low4 b))
  | 4 => .ok (.trr (low4 b))
  | 8 => .ok (.mcl (low4 b))
  | 12 => .ok (.mst (low4 b))
  | _ => .error (.unassignedSystem w)

/-- 150400₈ to 150777₈ (R110). -/
def decodeControl (w : Word) (b : Byte) : Except DecodeError Instr :=
  match b.toNat with
  | 0o00 => .ok .opcom
  | 0o01 => .ok .iof
  | 0o02 => .ok .ion
  | 0o04 => .ok .pof
  | 0o05 => .ok .piof
  | 0o06 => .ok .sex
  | 0o07 => .ok .rex
  | 0o10 => .ok .pon
  | 0o12 => .ok .pion
  | 0o15 => .ok .ioxt
  | 0o16 => .ok .exam
  | 0o17 => .ok .depo
  | _ => .error (.unassignedSystem w)

/-- 152400₈ to 152777₈: `LRB` has bit 7 and type 000 (R98, R110). -/
def decodeBlock (w : Word) (b : Byte) : Except DecodeError Instr :=
  match (bit7 b).toNat, (type3 b).toNat with
  | 1, 0 => .ok (.lrb (levelOf b))
  | _, _ => .error (.unassignedSystem w)

/-- 153400₈ to 153777₈: `IRW` and `IRR` (R98, R110). -/
def decodeInter (b : Byte) : Instr :=
  match (bit7 b).toNat with
  | 0 => .irw (levelOf b) (RegField.ofBits (type3 b))
  | _ => .irr (levelOf b) (RegField.ofBits (type3 b))

/-- 150000₈ to 153777₈ (R110). -/
def decodeSystem (w : Word) (r : BitVec 11) : Except DecodeError Instr :=
  match (sub3 r).toNat with
  | 0 => decodeIreg w (low8 r)
  | 1 => decodeControl w (low8 r)
  | 2 => .ok (.wait (low8 r))
  | 3 => .ok (.nlz (low8 r))
  | 4 => .ok (.dnz (low8 r))
  | 5 => decodeBlock w (low8 r)
  | 6 => .ok (.mon (low8 r))
  | _ => .ok (decodeInter (low8 r))

/-- 154000₈ to 157777₈, format SHIFT (R96): bits 10-9 type, 8-7 register, bit 6 always 0, 5-0 count. -/
def decodeShift (w : Word) (r : BitVec 11) : Except DecodeError Instr :=
  let ty := ShiftType.ofBits (r.extractLsb' 9 2)
  match (r.extractLsb' 6 3).toNat with
  | 0 => .ok (.sht ty (low6 r))
  | 2 => .ok (.shd ty (low6 r))
  | 4 => .ok (.sha ty (low6 r))
  | 6 => .ok (.sad ty (low6 r))
  | _ => .error (.shiftBitSix w)

/-- 130000₈ to 133777₈: the conditional jumps (R108). -/
def decodeJump (r : BitVec 11) : Instr :=
  match (sub3 r).toNat with
  | 0 => .jap (low8 r)
  | 1 => .jan (low8 r)
  | 2 => .jaz (low8 r)
  | 3 => .jaf (low8 r)
  | 4 => .jpc (low8 r)
  | 5 => .jnc (low8 r)
  | 6 => .jxz (low8 r)
  | _ => .jxn (low8 r)

/-- 170000₈ to 173777₈: the argument instructions (R108). -/
def decodeArgument (r : BitVec 11) : Instr :=
  match (sub3 r).toNat with
  | 0 => .sab (low8 r)
  | 1 => .saa (low8 r)
  | 2 => .sat (low8 r)
  | 3 => .sax (low8 r)
  | 4 => .aab (low8 r)
  | 5 => .aaa (low8 r)
  | 6 => .aat (low8 r)
  | _ => .aax (low8 r)

/-- 174000₈ to 177777₈: the sixteen bit operations, bits 10-7 (R108, R150). -/
def decodeBit (r : BitVec 11) : Instr :=
  let bn := levelOf (low8 r)
  let dr := RegField.ofBits (type3 (low8 r))
  match (r.extractLsb' 7 4).toNat with
  | 0 => .bsetZro bn dr
  | 1 => .bsetOne bn dr
  | 2 => .bsetBcm bn dr
  | 3 => .bsetBac bn dr
  | 4 => .bskpZro bn dr
  | 5 => .bskpOne bn dr
  | 6 => .bskpBcm bn dr
  | 7 => .bskpBac bn dr
  | 8 => .bstc bn dr
  | 9 => .bsta bn dr
  | 10 => .bldc bn dr
  | 11 => .blda bn dr
  | 12 => .banc bn dr
  | 13 => .band bn dr
  | 14 => .borc bn dr
  | _ => .bora bn dr

/-- The instruction of a word whose opcode is fixed (tags S and G of R108 to R110). -/
def decodeFixed (w : Word) : Except DecodeError Instr :=
  let r := restOf w
  let m := MemOperand.ofBits r
  match (opOf w).toNat with
  | 0 => .ok (.stz m)
  | 1 => .ok (.sta m)
  | 2 => .ok (.stt m)
  | 3 => .ok (.stx m)
  | 4 => .ok (.std m)
  | 5 => .ok (.ldd m)
  | 6 => .ok (.stf m)
  | 7 => .ok (.ldf m)
  | 8 => .ok (.min m)
  | 9 => .ok (.lda m)
  | 10 => .ok (.ldt m)
  | 11 => .ok (.ldx m)
  | 12 => .ok (.add m)
  | 13 => .ok (.sub m)
  | 14 => .ok (.and m)
  | 15 => .ok (.ora m)
  | 16 => .ok (.fad m)
  | 17 => .ok (.fsb m)
  | 18 => .ok (.fmu m)
  | 19 => .ok (.fdv m)
  | 20 => .ok (.mpy m)
  | 21 => .ok (.jmp m)
  | 22 => .ok (decodeJump r)
  | 23 => .ok (.jpl m)
  | 24 => decodeExtended w r
  | 25 => .ok (decodeRop r)
  | 26 => decodeSystem w r
  | 27 => decodeShift w r
  | 28 => .ok (.iot r)
  | 29 => .ok (.iox r)
  | 30 => .ok (decodeArgument r)
  | _ => .ok (decodeBit r)

/-- A base opcode and 10₈ times a number (R98, R101). -/
def offsetWord {n : Nat} (base : Word) (k : BitVec n) : Word := base + (k.setWidth 16 <<< 3)

/-- The eight words of an instruction of format DELTA with an open base (R101, R109). -/
def deltaFamily (base : Word) (i : BitVec 3 → Instr) : List (Word × Instr) :=
  (List.range 8).map fun k => (offsetWord base (BitVec.ofNat 3 k), i (BitVec.ofNat 3 k))

/-- The sixteen words of `SRB` (R110). -/
def levelFamily (base : Word) : List (Word × Instr) :=
  (List.range 16).map fun k => (offsetWord base (BitVec.ofNat 4 k), .srb (BitVec.ofNat 4 k))

/-- The words of format FIXED with an open opcode (R109). -/
def Opcodes.single (o : Opcodes) : List (Word × Instr) :=
  [(o.addd, .addd), (o.subd, .subd), (o.comd, .comd), (o.tset, .tset), (o.pack, .pack), (o.upack, .upack),
   (o.shde, .shde), (o.rdus, .rdus), (o.bfill, .bfill), (o.movb, .movb), (o.movbf, .movbf), (o.versn, .versn),
   (o.init, .init), (o.entr, .entr), (o.leave, .leave), (o.eleav, .eleav), (o.setpt, .setpt),
   (o.clept, .clept), (o.clnreent, .clnreent), (o.chreentpages, .chreentpages), (o.clepu, .clepu),
   (o.wglob, .wglob), (o.rglob, .rglob), (o.inspl, .inspl), (o.rempl, .rempl), (o.cnrek, .cnrek),
   (o.clpt, .clpt), (o.enpt, .enpt), (o.rept, .rept), (o.lbit, .lbit), (o.sbit, .sbit), (o.lbitp, .lbitp),
   (o.sbitp, .sbitp), (o.lbytp, .lbytp), (o.sbytp, .sbytp), (o.tsetp, .tsetp), (o.rdusp, .rdusp),
   (o.geco, .geco)]

/-- Every word with an open opcode (tag P of R109 and R110) and its instruction. -/
def Opcodes.table (o : Opcodes) : List (Word × Instr) :=
  o.single ++
    deltaFamily o.lasb .lasb ++ deltaFamily o.sasb .sasb ++ deltaFamily o.lacb .lacb ++ deltaFamily o.sacb .sacb ++
    deltaFamily o.lxsb .lxsb ++ deltaFamily o.lxcb .lxcb ++ deltaFamily o.szsb .szsb ++ deltaFamily o.szcb .szcb ++
    levelFamily o.srb

/-- The instruction of a word, or the name of its refusal (R108, R111, R112): the rows with a fixed opcode, then those with
an open one. -/
def decodeWord (o : Opcodes) (w : Word) : Except DecodeError Instr :=
  match decodeFixed w with
  | .ok i => .ok i
  | .error e =>
    match o.table.lookup w with
    | some i => .ok i
    | none => .error e

/-- Opcode values under which the rows of the table stay apart, as R111 has them: no two words of open opcodes are the same and
none is a word of a fixed opcode (log 14). -/
def Opcodes.wf (o : Opcodes) : Bool :=
  decide (o.table.map Prod.fst).Nodup && o.table.all fun e => !(decodeFixed e.1).isOk

/-- The word of two bytes in storage order: the left byte first (R68). -/
def wordOfBytes (hi lo : Byte) : Word := hi ++ lo

/-- Decoding from bytes: one instruction and the bytes after it (R90: every instruction is one word). -/
def decode (o : Opcodes) : List Byte → Except DecodeError (Instr × List Byte)
  | hi :: lo :: rest => (decodeWord o (wordOfBytes hi lo)).map fun i => (i, rest)
  | _ => .error .truncated

/-! ## Encoding -/

/-- A MEM word (R91). -/
def encodeMem (op : BitVec 5) (m : MemOperand) : Word := op ++ m.bits

/-- A word of bits 15-11, bits 10-8 and a byte (R92). -/
def encodeByte8 (op : BitVec 5) (sub : BitVec 3) (n : Byte) : Word := op ++ (sub ++ n)

/-- A word of bits 15-11, bits 10-6 and six low bits (R95, R97, R101 to R104). -/
def encodeKey (op key : BitVec 5) (r : BitVec 6) : Word := op ++ (key ++ r)

/-- Bits 5-3 and 2-0. -/
def pair33 (hi lo : BitVec 3) : BitVec 6 := hi ++ lo

/-- A ROP word (R94): rad, ADC and AD1 or the logical operation, CM1, CLD, sr, dr. -/
def encodeRop (rad b9 b8 cm1 cld : Bool) (sr dr : RegField) : Word :=
  encodeKey 0b11001#5
    (BitVec.ofBool rad ++ (BitVec.ofBool b9 ++ (BitVec.ofBool b8 ++ (BitVec.ofBool cm1 ++ BitVec.ofBool cld))))
    (pair33 sr.bits dr.bits)

/-- A LVL word (R98): bits 10-8, bit 7, level, type. -/
def encodeLvl (sub : BitVec 3) (b7 : BitVec 1) (level : Level) (type : BitVec 3) : Word :=
  encodeByte8 0b11010#5 sub (b7 ++ (level ++ type))

/-- An IREG word (R99). -/
def encodeIreg (group n : BitVec 4) : Word := encodeByte8 0b11010#5 0b000#3 (group ++ n)

/-- A shift word (R96). -/
def encodeShift (ty : ShiftType) (reg : BitVec 2) (count : BitVec 6) : Word :=
  encodeKey 0b11011#5 (ty.bits ++ (reg ++ 0#1)) count

/-- A bit-instruction word (R93). -/
def encodeBit (type bn : BitVec 4) (dr : RegField) : Word :=
  (0b11111#5 ++ (type ++ (bn ++ dr.bits)) : BitVec (5 + (4 + (4 + 3))))

/-- The word of an instruction. -/
def encode (o : Opcodes) : Instr → Word
  | .stz m => encodeMem 0 m
  | .sta m => encodeMem 1 m
  | .stt m => encodeMem 2 m
  | .stx m => encodeMem 3 m
  | .std m => encodeMem 4 m
  | .ldd m => encodeMem 5 m
  | .stf m => encodeMem 6 m
  | .ldf m => encodeMem 7 m
  | .min m => encodeMem 8 m
  | .lda m => encodeMem 9 m
  | .ldt m => encodeMem 10 m
  | .ldx m => encodeMem 11 m
  | .add m => encodeMem 12 m
  | .sub m => encodeMem 13 m
  | .and m => encodeMem 14 m
  | .ora m => encodeMem 15 m
  | .fad m => encodeMem 16 m
  | .fsb m => encodeMem 17 m
  | .fmu m => encodeMem 18 m
  | .fdv m => encodeMem 19 m
  | .mpy m => encodeMem 20 m
  | .jmp m => encodeMem 21 m
  | .jpl m => encodeMem 23 m
  | .jap d => encodeByte8 22 0 d
  | .jan d => encodeByte8 22 1 d
  | .jaz d => encodeByte8 22 2 d
  | .jaf d => encodeByte8 22 3 d
  | .jpc d => encodeByte8 22 4 d
  | .jnc d => encodeByte8 22 5 d
  | .jxz d => encodeByte8 22 6 d
  | .jxn d => encodeByte8 22 7 d
  | .skp cond sr dr => encodeKey 24 (cond.bits ++ 0#2) (pair33 sr.bits dr.bits)
  | .addd => o.addd
  | .subd => o.subd
  | .comd => o.comd
  | .tset => o.tset
  | .pack => o.pack
  | .upack => o.upack
  | .shde => o.shde
  | .rdus => o.rdus
  | .bfill => o.bfill
  | .movb => o.movb
  | .movbf => o.movbf
  | .versn => o.versn
  | .init => o.init
  | .entr => o.entr
  | .leave => o.leave
  | .eleav => o.eleav
  | .setpt => o.setpt
  | .clept => o.clept
  | .clnreent => o.clnreent
  | .chreentpages => o.chreentpages
  | .clepu => o.clepu
  | .wglob => o.wglob
  | .rglob => o.rglob
  | .inspl => o.inspl
  | .rempl => o.rempl
  | .cnrek => o.cnrek
  | .clpt => o.clpt
  | .enpt => o.enpt
  | .rept => o.rept
  | .lbit => o.lbit
  | .sbit => o.sbit
  | .lbitp => o.lbitp
  | .sbitp => o.sbitp
  | .lbytp => o.lbytp
  | .sbytp => o.sbytp
  | .tsetp => o.tsetp
  | .rdusp => o.rdusp
  | .geco => o.geco
  | .exr sr dr => encodeKey 24 6 (pair33 sr.bits dr.bits)
  | .lasb delta => offsetWord o.lasb delta
  | .sasb delta => offsetWord o.sasb delta
  | .lacb delta => offsetWord o.lacb delta
  | .sacb delta => offsetWord o.sacb delta
  | .lxsb delta => offsetWord o.lxsb delta
  | .lxcb delta => offsetWord o.lxcb delta
  | .szsb delta => offsetWord o.szsb delta
  | .szcb delta => offsetWord o.szcb delta
  | .rmpy sr dr => encodeKey 24 10 (pair33 sr.bits dr.bits)
  | .rdiv sr dr => encodeKey 24 14 (pair33 sr.bits dr.bits)
  | .lbyt => 0o142200
  | .sbyt => 0o142600
  | .movew ty => encodeKey 24 25 ty
  | .mix3 => 0o143200
  | .ldatx delta => encodeKey 24 27 (pair33 delta 0)
  | .ldxtx delta => encodeKey 24 27 (pair33 delta 1)
  | .lddtx delta => encodeKey 24 27 (pair33 delta 2)
  | .ldbtx delta => encodeKey 24 27 (pair33 delta 3)
  | .statx delta => encodeKey 24 27 (pair33 delta 4)
  | .stztx delta => encodeKey 24 27 (pair33 delta 5)
  | .stdtx delta => encodeKey 24 27 (pair33 delta 6)
  | .lwcs => 0o143500
  | .ident code => encodeKey 24 30 code
  | .swap cm1 cld sr dr => encodeRop false false false cm1 cld sr dr
  | .rand cm1 cld sr dr => encodeRop false false true cm1 cld sr dr
  | .rexo cm1 cld sr dr => encodeRop false true false cm1 cld sr dr
  | .rora cm1 cld sr dr => encodeRop false true true cm1 cld sr dr
  | .radd adc ad1 cm1 cld sr dr => encodeRop true adc ad1 cm1 cld sr dr
  | .copy adc ad1 cm1 sr dr => encodeRop true adc ad1 cm1 true sr dr
  | .rsub cld sr dr => encodeRop true false true true cld sr dr
  | .rinc dr => encodeRop true false true false false .code0 dr
  | .rdcr dr => encodeRop true false false true false .code0 dr
  | .rclr dr => encodeRop true false false false true .code0 dr
  | .exit => encodeRop true false false false true .l .p
  | .tra n => encodeIreg 0 n
  | .trr n => encodeIreg 4 n
  | .mcl n => encodeIreg 8 n
  | .mst n => encodeIreg 12 n
  | .opcom => 0o150400
  | .iof => 0o150401
  | .ion => 0o150402
  | .pof => 0o150404
  | .piof => 0o150405
  | .sex => 0o150406
  | .rex => 0o150407
  | .pon => 0o150410
  | .pion => 0o150412
  | .ioxt => 0o150415
  | .exam => 0o150416
  | .depo => 0o150417
  | .wait n => encodeByte8 26 2 n
  | .nlz scale => encodeByte8 26 3 scale
  | .dnz scale => encodeByte8 26 4 scale
  | .srb level => offsetWord o.srb level
  | .lrb level => encodeLvl 5 1 level 0
  | .mon n => encodeByte8 26 6 n
  | .irw level r => encodeLvl 7 0 level r.bits
  | .irr level r => encodeLvl 7 1 level r.bits
  | .sht ty count => encodeShift ty 0 count
  | .shd ty count => encodeShift ty 1 count
  | .sha ty count => encodeShift ty 2 count
  | .sad ty count => encodeShift ty 3 count
  | .iot addr => 28#5 ++ addr
  | .iox addr => 29#5 ++ addr
  | .sab arg => encodeByte8 30 0 arg
  | .saa arg => encodeByte8 30 1 arg
  | .sat arg => encodeByte8 30 2 arg
  | .sax arg => encodeByte8 30 3 arg
  | .aab arg => encodeByte8 30 4 arg
  | .aaa arg => encodeByte8 30 5 arg
  | .aat arg => encodeByte8 30 6 arg
  | .aax arg => encodeByte8 30 7 arg
  | .bsetZro bn dr => encodeBit 0 bn dr
  | .bsetOne bn dr => encodeBit 1 bn dr
  | .bsetBcm bn dr => encodeBit 2 bn dr
  | .bsetBac bn dr => encodeBit 3 bn dr
  | .bskpZro bn dr => encodeBit 4 bn dr
  | .bskpOne bn dr => encodeBit 5 bn dr
  | .bskpBcm bn dr => encodeBit 6 bn dr
  | .bskpBac bn dr => encodeBit 7 bn dr
  | .bstc bn dr => encodeBit 8 bn dr
  | .bsta bn dr => encodeBit 9 bn dr
  | .bldc bn dr => encodeBit 10 bn dr
  | .blda bn dr => encodeBit 11 bn dr
  | .banc bn dr => encodeBit 12 bn dr
  | .band bn dr => encodeBit 13 bn dr
  | .borc bn dr => encodeBit 14 bn dr
  | .bora bn dr => encodeBit 15 bn dr

/-- An assembler name's core instruction: the `RADD` word it stands for (R125); every other instruction is its own. -/
def Instr.core : Instr → Instr
  | .copy adc ad1 cm1 sr dr => .radd adc ad1 cm1 true sr dr
  | .rsub cld sr dr => .radd false true true cld sr dr
  | .rinc dr => .radd false true false false .code0 dr
  | .rdcr dr => .radd false false true false .code0 dr
  | .rclr dr => .radd false false false true .code0 dr
  | .exit => .radd false false false true .l .p
  | i => i

/-- The bytes of an instruction in storage order, the left byte first (R68). -/
def encodeBytes (o : Opcodes) (i : Instr) : List Byte :=
  [(encode o i).extractLsb' 8 8, (encode o i).extractLsb' 0 8]

/-- The host's question: the instruction read from the bits of one opcode-table row, at the default opcodes that the
table prints. -/
def decodeTableWord (_nbits w : Nat) : Option Instr :=
  let word : Word := BitVec.ofNat 16 w
  match decode Config.defaultOpcodes [word.extractLsb' 8 8, word.extractLsb' 0 8] with
  | .ok (i, _) => some i
  | .error _ => none

end Sys2Proof
end

