-- ==== Sys2Proof/Machine/Bits.lean ====
section
/-! DEFINITION. Bit fields, extension and bytes of a word. Spec: 00_scope.md R10, R11; 20_memory.md R68. -/

namespace Sys2Proof.Machine

/-- `sext_8` (R11): bit 7 copied into bits 15-8. -/
def sext8 (b : Byte) : Word := b.signExtend 16

/-- `zext_8` (R11): bits 15-8 zero. -/
def zext8 (b : Byte) : Word := b.setWidth 16

/-- The left byte, bits 15-8 (R10). -/
def leftByte (w : Word) : Byte := w.extractLsb' 8 8

/-- The right byte, bits 7-0 (R10). -/
def rightByte (w : Word) : Byte := w.extractLsb' 0 8

/-- The word `{left, right}` (R10, R68). -/
def joinBytes (left right : Byte) : Word := left ++ right

/-- The byte of a word selected by a byte index's lowest bit: 1 the right byte, 0 the left (R68, R190). -/
def selectByte (w : Word) (right : Bool) : Byte := if right then rightByte w else leftByte w

/-- A word with that byte replaced (R192). -/
def mergeByte (w : Word) (right : Bool) (v : Byte) : Word :=
  if right then joinBytes (leftByte w) v else joinBytes v (rightByte w)

/-- A bit vector with one bit replaced (R152). -/
def setBitTo {n : Nat} (w : BitVec n) (i : Nat) (v : Bool) : BitVec n :=
  if v then w ||| BitVec.twoPow n i else w &&& ~~~ BitVec.twoPow n i

/-- A 24-bit physical address from a bank register, of which bits 7-0 count (R62, log 28), and an address within the bank. -/
def physAddr (bank addr : Word) : PhysAddr := rightByte bank ++ addr

/-- A logical address as a physical address of bank 0 (R61). -/
def bankZero (addr : Word) : PhysAddr := addr.setWidth 24

/-- The 19-bit address of normal mode (R6, R62). -/
def normalModeAddr (pa : PhysAddr) : PhysAddr := (pa.extractLsb' 0 19).setWidth 24

end Sys2Proof.Machine
end

