-- ==== Sys2Proof/Machine/State.lean ====
section
/-! DEFINITION. The machine's state as plain data, the reasons a step can stop, and the state after power-up. Spec:
10_state.md R20 to R57, 20_memory.md R62 and R63, 60_exceptions.md R460 to R469, 70_reset_and_hazards.md R480 to R492. -/

namespace Sys2Proof.Machine

/-- The eight working registers of one program level (R20, R21). -/
structure Regs where
  /-- STS bits 7-0: PTM TG K Z Q O C M from bit 0 up (R27). Bits 15-8 are no register: they are computed (R31, log 17). -/
  sts : Byte
  d   : Word
  p   : Word
  b   : Word
  l   : Word
  a   : Word
  t   : Word
  x   : Word
deriving DecidableEq, Repr, Inhabited

/-- Why the machine halted (R466). -/
inductive HaltReason where
  /-- `WAIT n` with the interrupt system off (R281) -/
  | wait (n : Byte)
  /-- `OPCOM` (R279) -/
  | opcom
deriving DecidableEq, Repr, Inhabited

/-- `Run`, with the reason once it is false (R49(c), R488). -/
inductive Run where
  | on
  | off (reason : HaltReason)
deriving DecidableEq, Repr, Inhabited

/-- One I/O operation of the CPU (R492): the run's I/O trace is their sequence in program order. -/
inductive IoEvent where
  /-- `IoRead(dev)` and the word the device answered -/
  | read (dev value : Word)
  /-- `IoWrite(dev, value)` -/
  | write (dev value : Word)
  /-- `Ident(level)` and the code the host answered -/
  | ident (level : Level) (code : Word)
deriving DecidableEq, Repr, Inhabited

/-- One action of the host between two steps (R492 (a) and (b)); R492 (c) shows only in later answers (log 8). -/
inductive HostEvent where
  /-- a device requests an interrupt on a level -/
  | interrupt (level : Level)
  /-- DMA or another processor writes one physical word -/
  | memWrite (pa : PhysAddr) (value : Word)
deriving DecidableEq, Repr, Inhabited

/-- Physical memory: byte cells (2a the left and 2a+1 the right byte of word a, log 31), addresses strictly rising, no cell
of value 0, which is what an unlisted byte reads as (DESIGN CHOICE, log 1). -/
abbrev Memory := List Host.Cell

/-- Everything the spec gives the machine, and three fields of the model's own (`gaps`, `draws`, `params`). -/
structure State where
  /-- R[lvl], one register set per program level (R21) -/
  regs   : Vector Regs 16
  /-- PIL, the current program level (R34) -/
  pil    : Level
  /-- PID, priority interrupt detect (R42) -/
  pid    : Word
  /-- PIE, priority interrupt enable (R43) -/
  pie    : Word
  /-- IONI, interrupt system on (R32) -/
  ioni   : Bool
  /-- PONI, memory management on (R33) -/
  poni   : Bool
  /-- SEXI, extended physical addressing (R33) -/
  sexi   : Bool
  /-- PCRreg, the paging control register (R44) -/
  pcr    : Word
  /-- IIEreg, the internal interrupt enable register (R45) -/
  iie    : Word
  /-- STBNK, bank of the segment table (R48) -/
  stbnk  : Word
  /-- STSRT, start of the segment table within its bank (R48) -/
  stsrt  : Word
  /-- CMBNK, bank of the core-map table (R48) -/
  cmbnk  : Word
  /-- physical memory (R62) -/
  mem    : Memory
  /-- Run (R49(c)) -/
  run    : Run
  /-- the I/O operations performed so far, oldest first (R488, R492) -/
  ioTrace : List IoEvent
  /-- the host's events of the coming gaps between steps, the next gap first (the model's own form of R492; log 9) -/
  gaps   : List (List HostEvent)
  /-- how many values were drawn (the model's own, log 7) -/
  draws  : Nat
  /-- the implementation parameters (R9; the model's own, log 6) -/
  params : Params
deriving DecidableEq, Repr, Inhabited

/-- The kind of a logical access (R60), and the kind of a fault on a physical address (R463). -/
inductive Access where
  | fetch
  | read
  | write
  | nonexistent
deriving DecidableEq, Repr, Inhabited

/-- Which operand of an assigned instruction the spec does not define (R464). -/
inductive Reserved where
  /-- a bit instruction on an STS bit above 7 (R153) -/
  | stsBitAbove7
  /-- `EXR` with sr = 0 or P (R260) -/
  | exrRegister
  /-- `TRA` 16₈ (R372) -/
  | traRegister
  /-- `TRR` 4, 14₈, 16₈ (R373) -/
  | trrRegister
  /-- `MST` of a register other than STS, PID, PIE (R370) -/
  | mstRegister
  /-- `MCL` of a register other than STS, PID, PIE (R371) -/
  | mclRegister
  /-- `IDENT` with an unlisted level code (R276) -/
  | identLevel
deriving DecidableEq, Repr, Inhabited

/-- The model-level faults of 60_exceptions.md section 2. A fault ends the run with the state as before the step (R460). -/
inductive Fault where
  /-- R462. Raised by the fetch of an unassigned word, `IOT`, `VERSN` on the ND-100, `MOVEW` with an unassigned type, `EXR`
  of such a word. Safe: the spec's outcome; the hardware's reaction is in no source. -/
  | illegalInstruction (word : Word)
  /-- R461. Raised by every instruction of R471 when `PrivOK` is false. Safe: the run ends. -/
  | privilegeViolation (word : Word)
  /-- R464. Raised by the instructions of R114. Safe: the run ends. -/
  | reservedOperand (word : Word) (why : Reserved)
  /-- R463. Raised by a fetch or data access whose translation fails or whose physical address is not installed.
  Safe: the run ends. -/
  | translationFault (addr : PhysAddr) (kind : Access)
  /-- R466. Raised by a step of a machine that `WAIT` or `OPCOM` stopped; the halting instruction itself gives the next
  state with P advanced and Run off (log 16). Safe: the run ends. -/
  | halted (reason : HaltReason)
  /-- R211. Raised by `SETPT` and `CLEPT` when the chain of X links does not reach 0 within 65536 iterations. Safe: the spec
  calls the instruction stuck. -/
  | stuck
deriving DecidableEq, Repr, Inhabited

/-- Why the model gives an instruction no meaning. -/
inductive Refusal where
  /-- An arm of `exec` not reached yet. Raised by no instruction of this model. Safe. -/
  | notModelled (mnemonic : String)
  /-- R465: the spec gives no behaviour. Raised by `GECO`; by `LWCS` when CPU_MODEL is ND100; by `INIT` when INIT_MODELLED
  is false. Safe: it claims nothing of the hardware. -/
  | unmodelledInstruction (mnemonic : String)
deriving DecidableEq, Repr, Inhabited

/-- A register set at reset: the spec gives no values. DESIGN CHOICE zero (log 2). -/
def Regs.zero : Regs := { sts := 0, d := 0, p := 0, b := 0, l := 0, a := 0, t := 0, x := 0 }

/-- The machine after power-up (R55 to R57, R480). -/
def State.reset : State :=
  { regs := (Vector.replicate 16 Regs.zero).set 0 { Regs.zero with p := Config.resetP }
    pil := 0
    pid := 0
    pie := 0
    ioni := false
    poni := false
    sexi := false
    pcr := 0
    iie := 0
    stbnk := 0
    stsrt := 0
    cmbnk := 0
    mem := []
    run := .on
    ioTrace := []
    gaps := []
    draws := 0
    params := Config.defaultParams }

end Sys2Proof.Machine
end

