-- ==== Sys2Proof/Machine/Parameters.lean ====
section
/-! DEFINITION. The parameter functions of 00_scope.md R9 that read a whole state, as constants without a body: nothing can
be proved of their values. What the spec constrains about them is enforced where they are used. -/

namespace Sys2Proof.Machine

/-- `Translate` with PONI = 1 (R61): a physical address, or none where translation faults. With PONI = 0 it is not asked. -/
opaque translate : State → Word → Access → Option PhysAddr

/-- `TranslateAlt` (R432): the alternative page table, asked by `MOVEW` only with PONI = 1 and PTM = 1. -/
opaque translateAlt : State → Word → Access → Option PhysAddr

/-- `PrivOK` with PONI = 1 (R470). -/
opaque privOkPaging : State → Bool

/-- `IoRead` (R492): what the device answers in this state, of which the I/O trace so far is a part (log 8). -/
opaque ioRead : State → Word → Word

/-- `Ident` (R276, R492): the code the host answers in this state (log 8). -/
opaque identCode : State → Level → Word

/-- The nine instructions whose algorithm is not in the source (R222). -/
inductive SintranOp where
  | clepu
  | chreentpages
  | clnreent
  | clpt
  | cnrek
  | enpt
  | inspl
  | rempl
  | rept
deriving DecidableEq, Repr, Inhabited

/-- What a `Sintran_<mnemonic>` function may decide (R222): its contract fixes everything else. -/
structure SintranEffect where
  sts : Byte
  d   : Word
  b   : Word
  l   : Word
  a   : Word
  t   : Word
  x   : Word
  /-- physical words written, in order -/
  writes : List (PhysAddr × Word)
  stbnk : Word
  stsrt : Word
  cmbnk : Word
  /-- the access that faulted, if one did -/
  fault : Option (PhysAddr × Access)
deriving DecidableEq, Repr, Inhabited

/-- `Sintran_<mnemonic>` (R222, log 11). -/
opaque sintran : SintranOp → State → SintranEffect

/-- The six decimal instructions (R251). -/
inductive DecimalOp where
  | addd
  | subd
  | comd
  | pack
  | upack
  | shde
deriving DecidableEq, Repr, Inhabited

/-- The three answers of `COMD` (R247). -/
inductive Comparison where
  | equal
  | greater
  | less
deriving DecidableEq, Repr, Inhabited

/-- The two error codes of `PACK` and `UPACK` (R244). -/
inductive ConversionError where
  | illegalCode
  | overflow
deriving DecidableEq, Repr, Inhabited

/-- A decimal operand as its two descriptor words give it (R243). -/
structure DecimalOperand where
  /-- D1: word address -/
  address : Word
  /-- D2 bits 4-0: field length in digits, 0 to 31 -/
  length  : BitVec 5
  /-- D2 bits 9-5: decimal point -/
  point   : BitVec 5
  /-- D2 bit 10, "r": `SHDE` rounds where it is set in the second operand -/
  round   : Bool
  /-- D2 bits 13-11, "ASCII"; the highest of them, bit 13, makes the sign of the result 17₈ -/
  ascii   : BitVec 3
  /-- D2 bit 15, "lr": the field begins in the right byte -/
  right   : Bool
deriving DecidableEq, Repr, Inhabited

/-- The operand of the descriptor words D1 and D2 (R243). -/
def DecimalOperand.ofWords (d1 d2 : Word) : DecimalOperand :=
  { address := d1
    length := d2.extractLsb' 0 5
    point := d2.extractLsb' 5 5
    round := d2.getLsbD 10
    ascii := d2.extractLsb' 11 3
    right := d2.getLsbD 15 }

/-- What a `Decimal_<mnemonic>` function may decide (R251). -/
structure DecimalEffect where
  sts : Byte
  d   : Word
  a   : Word
  t   : Word
  x   : Word
  /-- the words of the first operand's field, `none` for one that is not written -/
  op1 : List (Option Word)
  /-- the words of the second operand's field -/
  op2 : List (Option Word)
  /-- no error was generated: the instruction skips (R244) -/
  ok  : Bool
  /-- `COMD`'s answer -/
  comparison : Comparison
  /-- the error `PACK` and `UPACK` report -/
  error : ConversionError
  /-- the logical access that stopped the function, if one did, and whether it was a write -/
  fault : Option (Word × Bool)
deriving DecidableEq, Repr, Inhabited

/-- `Decimal_<mnemonic>` (R251, log 12) of the state and its two operands. -/
opaque decimal : DecimalOp → State → DecimalOperand → DecimalOperand → DecimalEffect

end Sys2Proof.Machine
end

