-- ==== Sys2Proof/Machine/Ops.lean ====
section
/-! DEFINITION. The shared operations: memory, registers of a level, drawn values, address translation, privilege, the level
change (this machine's interrupt entry and return), and how a meaning ends. -/

namespace Sys2Proof.Machine

/-! ## Memory as byte cells -/

/-- The value of one byte; an unlisted byte reads as 0 (log 1). -/
def Memory.readByte : Memory → Nat → Byte
  | [], _ => 0
  | (a, v) :: rest, k => if a = k then v else Memory.readByte rest k

/-- A list cell for one byte: none where the byte is what an unlisted address reads as. -/
def Memory.cellOf (k : Nat) (v : Byte) : Memory := if v = 0 then [] else [(k, v)]

/-- Replaces one byte, keeping the canonical form. -/
def Memory.writeByte : Memory → Nat → Byte → Memory
  | [], k, v => Memory.cellOf k v
  | (a, w) :: rest, k, v =>
    if a < k then (a, w) :: Memory.writeByte rest k v
    else if a = k then Memory.cellOf k v ++ rest
    else Memory.cellOf k v ++ (a, w) :: rest

/-- The lowest address of a list, if any, is at least `n`, and from there on addresses rise and no value is 0. -/
def Memory.wfFrom : Nat → Memory → Bool
  | _, [] => true
  | n, (a, v) :: rest => decide (n ≤ a) && v != 0 && Memory.wfFrom (a + 1) rest

/-- The canonical form: addresses strictly rising, no cell of value 0. -/
def Memory.wf (m : Memory) : Bool := Memory.wfFrom 0 m

/-- Every listed cell belongs to one of the first `words` physical words. -/
def Memory.within (words : Nat) (m : Memory) : Bool := m.all fun c => decide (c.1 < 2 * words)

/-- The physical word at `pa`: its left byte at 2·pa, its right byte at 2·pa + 1 (R68, log 31). -/
def Memory.readWord (m : Memory) (pa : PhysAddr) : Word :=
  joinBytes (m.readByte (2 * pa.toNat)) (m.readByte (2 * pa.toNat + 1))

/-- `PhysWrite` on the list (R63). -/
def Memory.writeWord (m : Memory) (pa : PhysAddr) (v : Word) : Memory :=
  (m.writeByte (2 * pa.toNat) (leftByte v)).writeByte (2 * pa.toNat + 1) (rightByte v)

/-! ## Registers of a level -/

/-- R[n] (R21). -/
def State.lv (s : State) (n : Level) : Regs := s.regs[n.toNat]'n.isLt

/-- Replaces R[n]. -/
def State.setLv (s : State) (n : Level) (r : Regs) : State := { s with regs := s.regs.set n.toNat r n.isLt }

/-- The registers of the current program level: what an unindexed register name means (R21). -/
def State.cur (s : State) : Regs := s.lv s.pil

/-- Replaces the registers of the current program level. -/
def State.setCur (s : State) (r : Regs) : State := s.setLv s.pil r

/-- The registers after an instruction that transfers no control: P advanced by one (R24), modulo 2^16 (R25). -/
def Regs.step (r : Regs) : Regs := { r with p := r.p + 1 }

/-- The registers after a skip: P + 2 (R12, R24). -/
def Regs.skip (r : Regs) : Regs := { r with p := r.p + 2 }

/-- P + 2 if the condition holds, else P + 1. -/
def Regs.skipIf (r : Regs) (c : Bool) : Regs := if c then r.skip else r.step

/-- The machine after an instruction that writes no register and transfers no control. -/
def State.advance (s : State) : State := s.setCur s.cur.step

/-! ## Drawn values (log 7) -/

/-- The next drawn word. -/
def State.freeWord (s : State) : Word := Config.freeWord s.draws

/-- The state once `n` values have been drawn. -/
def State.drawn (s : State) (n : Nat) : State := { s with draws := s.draws + n }

/-! ## STS as a word (R31, log 17) -/

/-- The mode bits 15-8 of STS: IONI, PONI, SEXI, 1, PIL. -/
def State.modeBits (s : State) : Byte :=
  BitVec.ofBool s.ioni ++ (BitVec.ofBool s.poni ++ (BitVec.ofBool s.sexi ++ (1#1 ++ s.pil)))

/-- STS of the current level as it is read. -/
def State.stsWord (s : State) : Word := joinBytes s.modeBits s.cur.sts

/-! ## Physical memory and translation -/

/-- `PhysRead(pa)` of an installed word (R63). -/
def State.physRead (s : State) (pa : PhysAddr) : Word := s.mem.readWord pa

/-- `PhysWrite(pa, v)` of an installed word (R63). -/
def State.physWrite (s : State) (pa : PhysAddr) (v : Word) : State := { s with mem := s.mem.writeWord pa v }

/-- A write by an agent that cannot fault: a word not installed stays unwritten (log 32). -/
def State.physWriteIfInstalled (s : State) (pa : PhysAddr) (v : Word) : State :=
  if pa.toNat < s.params.physWords then s.physWrite pa v else s

/-- An access at or beyond PHYS_WORDS faults (R63). -/
def installed (s : State) (pa : PhysAddr) : Except Fault PhysAddr :=
  if pa.toNat < s.params.physWords then .ok pa else .error (.translationFault pa .nonexistent)

/-- A physical address produced by the paging system: 19 bits unless SEXI is set (R62). -/
def pagedAddr (s : State) (pa : PhysAddr) : PhysAddr := if s.sexi then pa else normalModeAddr pa

/-- The answer of `Translate` or `TranslateAlt` for a logical address (R463). -/
def paged (s : State) (addr : Word) (kind : Access) : Option PhysAddr → Except Fault PhysAddr
  | some pa => installed s (pagedAddr s pa)
  | none => .error (.translationFault (bankZero addr) kind)

/-- `Translate` and the check of R63: where a logical access goes (R60, R61). -/
def locate (s : State) (addr : Word) (kind : Access) : Except Fault PhysAddr :=
  if s.poni then paged s addr kind (translate s addr kind) else installed s (bankZero addr)

/-- `MemRead(addr, 1)` (R60). -/
def memRead (s : State) (addr : Word) : Except Fault Word := do
  let pa ← locate s addr .read
  return s.physRead pa

/-- Instruction fetch (R14, R84). -/
def fetch (s : State) : Except Fault Word := do
  let pa ← locate s s.cur.p .fetch
  return s.physRead pa

/-! ## Walks over memory -/

/-- `n` writes in ascending order from the k-th on, each of the memory that the earlier ones left; the first that fails ends the
walk (R85). -/
def walk (write : Nat → Memory → Except Fault Memory) : Nat → Nat → Memory → Except Fault Memory
  | 0, _, mem => .ok mem
  | n + 1, k, mem => do
    let mem' ← write k mem
    walk write n (k + 1) mem'

/-! ## Privilege (R461, R470) -/

/-- `PrivOK`: true with memory management off; else a parameter function. -/
def privOk (s : State) : Bool := !s.poni || privOkPaging s

/-- The privilege check of the instruction `i`. -/
def requirePrivilege (s : State) (i : Instr) : Except Fault Unit :=
  if privOk s then .ok () else .error (.privilegeViolation (encode s.params.opcodes i))

/-- The reserved-operand check of the instruction `i` (R464). -/
def requireOperand (s : State) (i : Instr) (why : Reserved) (ok : Bool) : Except Fault Unit :=
  if ok then .ok () else .error (.reservedOperand (encode s.params.opcodes i) why)

/-! ## How a meaning ends -/

/-- A meaning's result as the outcome of a step: a fault carries no state, so the state stays as before (R460). -/
def finish : Except Fault State → Host.Outcome State Fault Refusal
  | .ok s => .next s
  | .error f => .fault f

/-! ## Interrupts: the level change (R446, R447) -/

/-- The highest level below `n` whose bit is set, 0 if none is. -/
def highestBelow (req : Word) : Nat → Level
  | 0 => 0
  | n + 1 => if req.getLsbD n then BitVec.ofNat 4 n else highestBelow req n

/-- `max req`, or 0 when no level is requesting (R446). -/
def highestRequest (s : State) : Level := highestBelow (s.pid &&& s.pie) 16

/-- The level-change rule R446, taking an interrupt and returning from one: with the interrupt system on, PIL becomes the
highest requesting level. Nothing is saved, no memory is written: the left level keeps its registers, its P at its next
instruction; control goes to the entered level's own P (R447, R448). -/
def levelChange (s : State) : State := if s.ioni then { s with pil := highestRequest s } else s

/-- Giving up priority (R281, R449), the return from an interrupt: the level's PID bit is cleared and P passes the `WAIT`;
R446 selects the next level at the start of the next step. -/
def giveUpPriority (s : State) : State := { s.advance with pid := setBitTo s.pid s.pil.toNat false }

/-- The levels a device may request (R451). -/
def externalLevel (n : Level) : Bool := n == 10#4 || n == 11#4 || n == 12#4 || n == 13#4 || n == 15#4

/-- One host event (R492). Requests on other levels and writes of words not installed have no effect (log 32). -/
def applyHostEvent (s : State) : HostEvent → State
  | .interrupt n => if externalLevel n then { s with pid := setBitTo s.pid n.toNat true } else s
  | .memWrite pa v => s.physWriteIfInstalled pa v

/-- The host's events of the gap before a step. -/
def applyGap (s : State) : State := (s.gaps.headD []).foldl applyHostEvent { s with gaps := s.gaps.tail }

/-- Item 1 of the step: the events of the gap, then the level-change rule (R14, R446). -/
def beginStep (s : State) : State := levelChange (applyGap s)

/-- The step ends with the machine stopped (R466, R488). -/
def halt (s : State) (reason : HaltReason) : State := { s.advance with run := .off reason }

end Sys2Proof.Machine
end

