-- ==== Sys2Proof/Machine/Operands.lean ====
section
/-! DEFINITION. Operand forms: effective addresses (R70), register operands (R341 to R343), addressed bits (R151 to R153),
byte positions (R190, R193), bit arrays (R203), stack frames (R410). -/

namespace Sys2Proof.Machine

/-! ## Effective address (R70 to R72) -/

/-- The address before indirection and indexing: B, X's slot or P, plus the displacement. -/
def directAddr (r : Regs) (m : MemOperand) : Word :=
  (if m.b then r.b else if m.x && !m.i then 0 else r.p) + sext8 m.disp

/-- What indexing adds. -/
def indexOf (r : Regs) (m : MemOperand) : Word := if m.x then r.x else 0

/-- EA: one level of indirection at most, then indexing (R70, R71). P is the address of the instruction, under `EXR` of the
`EXR` (R72). -/
def effAddr (s : State) (m : MemOperand) : Except Fault Word :=
  if m.i then do
    let t ← memRead s (directAddr s.cur m)
    return t + indexOf s.cur m
  else .ok (directAddr s.cur m + indexOf s.cur m)

/-- The word at EA: the operand of the reading memory-reference instructions (R140, R300). -/
def memOperand (s : State) (m : MemOperand) : Except Fault Word := do
  let ea ← effAddr s m
  memRead s ea

/-- One word stored, P advanced. -/
def storeWord (s : State) (addr v : Word) : Except Fault State := do
  let pa ← locate s addr .write
  return (s.physWrite pa v).advance

/-! ## Register operands (R341 to R343) -/

/-- A register operand as it is read: code 0 reads as zero (R341, R403). -/
def Regs.operand (r : Regs) : RegField → Word
  | .code0 => 0
  | .d => r.d
  | .p => r.p
  | .b => r.b
  | .l => r.l
  | .a => r.a
  | .t => r.t
  | .x => r.x

/-- A register written as a destination: code 0 discards (R343). Applied to registers whose P has already passed the
instruction, so that a write of P is the address of the next instruction (R26, R342). -/
def Regs.setDest (r : Regs) (f : RegField) (v : Word) : Regs :=
  match f with
  | .code0 => r
  | .d => { r with d := v }
  | .p => { r with p := v }
  | .b => { r with b := v }
  | .l => { r with l := v }
  | .a => { r with a := v }
  | .t => { r with t := v }
  | .x => { r with x := v }

/-- The source operand `s`: complemented under CM1 (R341). -/
def sourceOperand (r : Regs) (sr : RegField) (cm1 : Bool) : Word :=
  if cm1 then ~~~ r.operand sr else r.operand sr

/-- The destination operand `d`: zero under CLD (R341). -/
def destOperand (r : Regs) (dr : RegField) (cld : Bool) : Word := if cld then 0 else r.operand dr

/-! ## Addressed bits (R151 to R153) -/

/-- The addressed bit: of STS for code 0, else of the register; of P it is a bit of the instruction's address (R151). -/
def Regs.bit (r : Regs) (bn : BitVec 4) (dr : RegField) : Bool :=
  match dr with
  | .code0 => r.sts.getLsbD bn.toNat
  | _ => (r.operand dr).getLsbD bn.toNat

/-- The addressed bit replaced (R152). `old` holds the register as it was read, `r` the registers the result goes into. -/
def Regs.setBit (r : Regs) (old : Regs) (bn : BitVec 4) (dr : RegField) (v : Bool) : Regs :=
  match dr with
  | .code0 => { r with sts := setBitTo r.sts bn.toNat v }
  | _ => r.setDest dr (setBitTo (old.operand dr) bn.toNat v)

/-! ## Bytes and bits in memory -/

/-- The word address of byte `X` of the string at `T` (R190). -/
def byteAddr (start index : Word) : Word := start + (index >>> 1)

/-- Whether a byte index names the right byte (R190). -/
def isRight (index : Word) : Bool := index.getLsbD 0

/-- The word of a bit array that holds the bit of index `i` (R203). -/
def bitArrayAddr (start i : Word) : Word := start + (i >>> 4)

/-- The bit within that word (R203, `BITARRAY_MSB_FIRST`). -/
def bitArrayPos (p : Params) (i : Word) : Nat :=
  if p.bitArrayMsbFirst then 15 - (i.extractLsb' 0 4).toNat else (i.extractLsb' 0 4).toNat

/-! ## Byte descriptors (R193) -/

/-- The width of a descriptor's length field, at most the 15 bits below `lr` (log 23). -/
def lenBits (p : Params) : Nat := min p.byteLenBits 15

/-- The length field of the second descriptor word. -/
def fieldLen (p : Params) (d2 : Word) : Nat := d2.toNat % 2 ^ lenBits p

/-- The linear byte index of the descriptor's position. -/
def byteIndex (d1 d2 : Word) : Nat := 2 * d1.toNat + d2.msb.toNat

/-- The word address of a linear byte index. -/
def indexWord (idx : Nat) : Word := BitVec.ofNat 16 (idx / 2)

/-- Whether a linear byte index names the right byte. -/
def indexRight (idx : Nat) : Bool := decide (idx % 2 = 1)

/-- The first descriptor word advanced to a linear byte index. -/
def advancedD1 (idx : Nat) : Word := indexWord idx

/-- The second descriptor word advanced to a linear byte index with a new length; the bits between are preserved. -/
def advancedD2 (p : Params) (d2 : Word) (idx : Nat) (len : Nat) : Word :=
  setBitTo (BitVec.ofNat 16 (d2.toNat - fieldLen p d2 + len)) 15 (indexRight idx)

/-! ## Physical operands (R62) -/

/-- `PhysRead` of an address an instruction forms, with the check of R63. -/
def physLoad (s : State) (pa : PhysAddr) : Except Fault Word := do
  let pa' ← installed s pa
  return s.physRead pa'

/-- `PhysWrite` to an address an instruction forms, with the check of R63; no register changes. -/
def physStore (s : State) (pa : PhysAddr) (v : Word) : Except Fault State := do
  let pa' ← installed s pa
  return s.physWrite pa' v

/-- `PhysTX`'s address: the bank from T (R316). -/
def txAddr (r : Regs) (off : Word) : PhysAddr := physAddr r.t off

/-- A 3-bit displacement Δ as a word (R101, R225, R316). -/
def deltaWord (delta : BitVec 3) : Word := delta.setWidth 16

/-- The window address of a page-table entry: 177000₈ OR twice the word (R319). -/
def pageTableSlot (w : Word) : Word := 0o177000#16 ||| (w <<< 1)

/-! ## Stack frames (R410) -/

/-- `Frame(b, k)`. -/
def frameAddr (b k : Word) : Word := b - k

end Sys2Proof.Machine
end

