-- ==== Sys2Proof/Machine/Flags.lean ====
section
/-! DEFINITION. The flags of STS (R27) and every flag computation: the adder (R30), the integer product (R145), the skip
comparison (R403, R404) and the shifts (R395). -/

namespace Sys2Proof.Machine

/-- The flags of STS bits 0 to 7 (R27). -/
inductive Flag where
  | ptm
  | tg
  | k
  | z
  | q
  | o
  | c
  | m
deriving DecidableEq, Repr, Inhabited

/-- The bit of a flag (R27). -/
def Flag.pos : Flag → Nat
  | .ptm => 0 | .tg => 1 | .k => 2 | .z => 3 | .q => 4 | .o => 5 | .c => 6 | .m => 7

/-- A flag of a level. -/
def Regs.flag (r : Regs) (f : Flag) : Bool := r.sts.getLsbD f.pos

/-- A flag written. -/
def Regs.setFlag (r : Regs) (f : Flag) (v : Bool) : Regs := { r with sts := setBitTo r.sts f.pos v }

/-- A sticky flag: set by the condition, never cleared (R29; Z: R28). -/
def Regs.raiseFlag (r : Regs) (f : Flag) (c : Bool) : Regs := if c then r.setFlag f true else r

/-! ## The adder (R30) -/

/-- What the adder gives: the sum's low 16 bits, the carry out of bit 15, signed overflow. -/
structure AdderResult where
  res   : Word
  carry : Bool
  ovf   : Bool
deriving DecidableEq, Repr, Inhabited

/-- The adder of R30: `ovf` compares the signs of the operands with the result's and does not look at the carry in. -/
def adder (a b : Word) (cin : Bool) : AdderResult :=
  let sum := a.toNat + b.toNat + cin.toNat
  let res : Word := BitVec.ofNat 16 sum
  { res := res
    carry := decide (2 ^ 16 ≤ sum)
    ovf := (a.msb == b.msb) && (res.msb != a.msb) }

/-- Q as the dynamic and O as the static overflow flag (R29). -/
def Regs.setOverflow (r : Regs) (ovf : Bool) : Regs := (r.setFlag .q ovf).raiseFlag .o ovf

/-- C, O, Q from the adder (R30). -/
def Regs.addFlags (r : Regs) (x : AdderResult) : Regs := (r.setFlag .c x.carry).setOverflow x.ovf

/-! ## The integer product (R145) -/

/-- The exact signed product. -/
def signedProduct (a b : Word) : Int := a.toInt * b.toInt

/-- Overflow of `MPY`: an absolute value above 32767. -/
def productOverflow (p : Int) : Bool := decide (32767 < p.natAbs)

/-! ## The skip comparison (R403, R404) -/

/-- The values S, Zc, Cc, Oc of R403. -/
structure Comparand where
  s : Bool
  z : Bool
  c : Bool
  o : Bool
deriving DecidableEq, Repr, Inhabited

/-- `d - s` by complement addition (R403). -/
def compareWords (d s : Word) : Comparand :=
  let x := adder d (~~~ s) true
  { s := x.res.msb
    z := x.res == 0
    c := x.carry
    o := (d.msb != s.msb) && (x.res.msb != d.msb) }

/-- The eight conditions (R404). -/
def skipHolds (cond : SkipCond) (f : Comparand) : Bool :=
  match cond with
  | .eql => f.z
  | .geq => !f.s
  | .gre => !(f.s != f.o)
  | .mgre => f.c
  | .ueq => !f.z
  | .lss => f.s
  | .lst => f.s != f.o
  | .mlst => !f.c

/-! ## Shifts (R395) -/

/-- A value of width w with the multi-shift link M. -/
structure Shifted (w : Nat) where
  v : BitVec w
  m : Bool
deriving DecidableEq, Repr

/-- Left one place: the top bit goes to M. -/
def shiftLeftOne {w : Nat} (ty : ShiftType) (x : Shifted w) : Shifted w :=
  let out := x.v.getLsbD (w - 1)
  let inp := match ty with
    | .rot => out
    | .lin => x.m
    | .arith => false
    | .zin => false
  { v := setBitTo (x.v <<< 1) 0 inp, m := out }

/-- Right one place: bit 0 goes to M. -/
def shiftRightOne {w : Nat} (ty : ShiftType) (x : Shifted w) : Shifted w :=
  let out := x.v.getLsbD 0
  let inp := match ty with
    | .arith => x.v.getLsbD (w - 1)
    | .rot => out
    | .lin => x.m
    | .zin => false
  { v := setBitTo (x.v >>> 1) (w - 1) inp, m := out }

/-- A step taken `n` times. -/
def iterate {α : Type} (f : α → α) : Nat → α → α
  | 0, x => x
  | n + 1, x => iterate f n (f x)

/-- The shift by the 6-bit signed count (R106, R395): left for n ≥ 0, right for n < 0; a count of 0 changes nothing. -/
def shift {w : Nat} (ty : ShiftType) (count : BitVec 6) (x : Shifted w) : Shifted w :=
  if count.msb then iterate (shiftRightOne ty) count.toInt.natAbs x
  else iterate (shiftLeftOne ty) count.toNat x

end Sys2Proof.Machine
end

