-- ==== Sys2Proof/Machine/Argument.lean ====
section
/-! DEFINITION. The argument instructions. Spec: 40_argument.md R130 to R138. -/

namespace Sys2Proof.Machine

/-- `SAA` (R131). -/
def execSaa (arg : Byte) (s : State) : Host.Outcome State Fault Refusal :=
  .next (s.setCur { s.cur.step with a := sext8 arg })

/-- `SAB` (R132). -/
def execSab (arg : Byte) (s : State) : Host.Outcome State Fault Refusal :=
  .next (s.setCur { s.cur.step with b := sext8 arg })

/-- `SAT` (R133). -/
def execSat (arg : Byte) (s : State) : Host.Outcome State Fault Refusal :=
  .next (s.setCur { s.cur.step with t := sext8 arg })

/-- `SAX` (R134). -/
def execSax (arg : Byte) (s : State) : Host.Outcome State Fault Refusal :=
  .next (s.setCur { s.cur.step with x := sext8 arg })

/-- `AAA` (R135). -/
def execAaa (arg : Byte) (s : State) : Host.Outcome State Fault Refusal :=
  let sum := adder s.cur.a (sext8 arg) false
  .next (s.setCur { s.cur.step.addFlags sum with a := sum.res })

/-- `AAB` (R136). -/
def execAab (arg : Byte) (s : State) : Host.Outcome State Fault Refusal :=
  let sum := adder s.cur.b (sext8 arg) false
  .next (s.setCur { s.cur.step.addFlags sum with b := sum.res })

/-- `AAT` (R137). -/
def execAat (arg : Byte) (s : State) : Host.Outcome State Fault Refusal :=
  let sum := adder s.cur.t (sext8 arg) false
  .next (s.setCur { s.cur.step.addFlags sum with t := sum.res })

/-- `AAX` (R138). -/
def execAax (arg : Byte) (s : State) : Host.Outcome State Fault Refusal :=
  let sum := adder s.cur.x (sext8 arg) false
  .next (s.setCur { s.cur.step.addFlags sum with x := sum.res })

end Sys2Proof.Machine
end

