-- ==== Sys2Proof/Machine/Arith.lean ====
section
/-! DEFINITION. The arithmetic and logical memory-reference instructions. Spec: 41_arith_logical_memref.md R140 to R145. -/

namespace Sys2Proof.Machine

/-- `ADD` (R141). -/
def execAdd (m : MemOperand) (s : State) : Host.Outcome State Fault Refusal :=
  finish do
    let v ← memOperand s m
    let sum := adder s.cur.a v false
    return s.setCur { s.cur.step.addFlags sum with a := sum.res }

/-- `SUB`: A plus the one's complement of the operand plus one (R142). -/
def execSub (m : MemOperand) (s : State) : Host.Outcome State Fault Refusal :=
  finish do
    let v ← memOperand s m
    let sum := adder s.cur.a (~~~ v) true
    return s.setCur { s.cur.step.addFlags sum with a := sum.res }

/-- `AND` (R143). -/
def execAnd (m : MemOperand) (s : State) : Host.Outcome State Fault Refusal :=
  finish do
    let v ← memOperand s m
    return s.setCur { s.cur.step with a := s.cur.a &&& v }

/-- `ORA` (R144). -/
def execOra (m : MemOperand) (s : State) : Host.Outcome State Fault Refusal :=
  finish do
    let v ← memOperand s m
    return s.setCur { s.cur.step with a := s.cur.a ||| v }

/-- `MPY`: the low 16 bits of the exact product; O and Q on an absolute value above 32767; C is not written (R145). -/
def execMpy (m : MemOperand) (s : State) : Host.Outcome State Fault Refusal :=
  finish do
    let v ← memOperand s m
    let p := signedProduct s.cur.a v
    return s.setCur { s.cur.step.setOverflow (productOverflow p) with a := BitVec.ofInt 16 p }

end Sys2Proof.Machine
end

