-- ==== Sys2Proof/Machine/Bit.lean ====
section
/-! DEFINITION. The bit instructions. Spec: 42_bit.md R150 to R172. Each checks its operand first (R153). K is STS bit 2. -/

namespace Sys2Proof.Machine

/-- The reserved-operand check of the sixteen operations (R153). -/
def requireBit (s : State) (i : Instr) (bn : BitVec 4) (dr : RegField) : Except Fault Unit :=
  requireOperand s i .stsBitAbove7 (bitOperandOk bn dr)

/-- The addressed bit becomes `v` (R152). -/
def storeBit (s : State) (bn : BitVec 4) (dr : RegField) (v : Bool) : Regs := s.cur.step.setBit s.cur bn dr v

/-- K becomes `v`. -/
def loadK (s : State) (v : Bool) : Regs := s.cur.step.setFlag .k v

/-- `BSET ZRO` (R154): the bit becomes 0. -/
def execBsetZro (bn : BitVec 4) (dr : RegField) (s : State) : Host.Outcome State Fault Refusal :=
  finish do
    requireBit s (.bsetZro bn dr) bn dr
    return s.setCur (storeBit s bn dr false)

/-- `BSET ONE` (R155): the bit becomes 1. -/
def execBsetOne (bn : BitVec 4) (dr : RegField) (s : State) : Host.Outcome State Fault Refusal :=
  finish do
    requireBit s (.bsetOne bn dr) bn dr
    return s.setCur (storeBit s bn dr true)

/-- `BSET BCM` (R156): the bit is complemented. -/
def execBsetBcm (bn : BitVec 4) (dr : RegField) (s : State) : Host.Outcome State Fault Refusal :=
  finish do
    requireBit s (.bsetBcm bn dr) bn dr
    return s.setCur (storeBit s bn dr (!s.cur.bit bn dr))

/-- `BSET BAC` (R157): the bit becomes K. -/
def execBsetBac (bn : BitVec 4) (dr : RegField) (s : State) : Host.Outcome State Fault Refusal :=
  finish do
    requireBit s (.bsetBac bn dr) bn dr
    return s.setCur (storeBit s bn dr (s.cur.flag .k))

/-- `BSKP ZRO` (R158): skip if the bit is 0. -/
def execBskpZro (bn : BitVec 4) (dr : RegField) (s : State) : Host.Outcome State Fault Refusal :=
  finish do
    requireBit s (.bskpZro bn dr) bn dr
    return s.setCur (s.cur.skipIf (!s.cur.bit bn dr))

/-- `BSKP ONE` (R159): skip if the bit is 1. -/
def execBskpOne (bn : BitVec 4) (dr : RegField) (s : State) : Host.Outcome State Fault Refusal :=
  finish do
    requireBit s (.bskpOne bn dr) bn dr
    return s.setCur (s.cur.skipIf (s.cur.bit bn dr))

/-- `BSKP BCM` (R160): skip if the bit is not K. -/
def execBskpBcm (bn : BitVec 4) (dr : RegField) (s : State) : Host.Outcome State Fault Refusal :=
  finish do
    requireBit s (.bskpBcm bn dr) bn dr
    return s.setCur (s.cur.skipIf (s.cur.bit bn dr != s.cur.flag .k))

/-- `BSKP BAC` (R161): skip if the bit is K. -/
def execBskpBac (bn : BitVec 4) (dr : RegField) (s : State) : Host.Outcome State Fault Refusal :=
  finish do
    requireBit s (.bskpBac bn dr) bn dr
    return s.setCur (s.cur.skipIf (s.cur.bit bn dr == s.cur.flag .k))

/-- `BSTC` (R162): the bit becomes the complement of K, then K becomes 1. -/
def execBstc (bn : BitVec 4) (dr : RegField) (s : State) : Host.Outcome State Fault Refusal :=
  finish do
    requireBit s (.bstc bn dr) bn dr
    return s.setCur ((storeBit s bn dr (!s.cur.flag .k)).setFlag .k true)

/-- `BSTA` (R163): the bit becomes K, then K becomes 0. -/
def execBsta (bn : BitVec 4) (dr : RegField) (s : State) : Host.Outcome State Fault Refusal :=
  finish do
    requireBit s (.bsta bn dr) bn dr
    return s.setCur ((storeBit s bn dr (s.cur.flag .k)).setFlag .k false)

/-- `BLDC` (R164): K becomes the complement of the bit. -/
def execBldc (bn : BitVec 4) (dr : RegField) (s : State) : Host.Outcome State Fault Refusal :=
  finish do
    requireBit s (.bldc bn dr) bn dr
    return s.setCur (loadK s (!s.cur.bit bn dr))

/-- `BLDA` (R165): K becomes the bit. -/
def execBlda (bn : BitVec 4) (dr : RegField) (s : State) : Host.Outcome State Fault Refusal :=
  finish do
    requireBit s (.blda bn dr) bn dr
    return s.setCur (loadK s (s.cur.bit bn dr))

/-- `BANC` (R166): K becomes K and the complement of the bit. -/
def execBanc (bn : BitVec 4) (dr : RegField) (s : State) : Host.Outcome State Fault Refusal :=
  finish do
    requireBit s (.banc bn dr) bn dr
    return s.setCur (loadK s (s.cur.flag .k && !s.cur.bit bn dr))

/-- `BAND` (R167): K becomes K and the bit. -/
def execBand (bn : BitVec 4) (dr : RegField) (s : State) : Host.Outcome State Fault Refusal :=
  finish do
    requireBit s (.band bn dr) bn dr
    return s.setCur (loadK s (s.cur.flag .k && s.cur.bit bn dr))

/-- `BORC` (R168): K becomes K or the complement of the bit. -/
def execBorc (bn : BitVec 4) (dr : RegField) (s : State) : Host.Outcome State Fault Refusal :=
  finish do
    requireBit s (.borc bn dr) bn dr
    return s.setCur (loadK s (s.cur.flag .k || !s.cur.bit bn dr))

/-- `BORA` (R169): K becomes K or the bit. -/
def execBora (bn : BitVec 4) (dr : RegField) (s : State) : Host.Outcome State Fault Refusal :=
  finish do
    requireBit s (.bora bn dr) bn dr
    return s.setCur (loadK s (s.cur.flag .k || s.cur.bit bn dr))

end Sys2Proof.Machine
end

