-- ==== Sys2Proof/Machine/ByteOps.lean ====
section
/-! DEFINITION. The byte instructions. Spec: 43_byte.md R190 to R197. The block instructions thread the memory through the
copy and translate every address with the state before the instruction (log 19); a byte store is a word read and a word
write, translated each by its kind (R66, R192, log 20). -/

namespace Sys2Proof.Machine

/-- A byte replaced in the word at a logical address: word read, merge, word write (R192). -/
def storeByteAt (s : State) (mem : Memory) (addr : Word) (right : Bool) (v : Byte) : Except Fault Memory := do
  let pr ← locate s addr .read
  let pw ← locate s addr .write
  return mem.writeWord pw (mergeByte (mem.readWord pr) right v)

/-- The byte at a linear byte index. -/
def loadByteAt (s : State) (mem : Memory) (idx : Nat) : Except Fault Byte := do
  let pa ← locate s (indexWord idx) .read
  return selectByte (mem.readWord pa) (indexRight idx)

/-- The byte at a linear byte index replaced. -/
def storeByteIndex (s : State) (mem : Memory) (idx : Nat) (v : Byte) : Except Fault Memory :=
  storeByteAt s mem (indexWord idx) (indexRight idx) v

/-- `n` bytes filled from a linear byte index on (R194). -/
def fillBytes (s : State) (v : Byte) (n start : Nat) : Except Fault Memory :=
  walk (fun k mem => storeByteIndex s mem (start + k) v) n 0 s.mem

/-- `n` bytes read from a linear byte index on (R195). -/
def readBytes (s : State) (mem : Memory) : Nat → Nat → Except Fault (List Byte)
  | 0, _ => .ok []
  | n + 1, idx => do
    let v ← loadByteAt s mem idx
    let rest ← readBytes s mem n (idx + 1)
    return v :: rest

/-- Bytes written from a linear byte index on (R195). -/
def writeBytes (s : State) (bytes : List Byte) (start : Nat) : Except Fault Memory :=
  walk (fun k mem => storeByteIndex s mem (start + k) (bytes.getD k 0)) bytes.length 0 s.mem

/-- `n` bytes copied one at a time, each read immediately before it is written (R196). -/
def copyForward (s : State) (n src dst : Nat) : Except Fault Memory :=
  walk (fun k mem => do
    let v ← loadByteAt s mem (src + k)
    storeByteIndex s mem (dst + k) v) n 0 s.mem

/-- The number of bytes `MOVB` and `MOVBF` move: the shorter field (R195). -/
def moveCount (s : State) : Nat := min (fieldLen s.params s.cur.d) (fieldLen s.params s.cur.t)

/-- The registers after a byte move (R195): both positions advanced, the source length 0, the destination length the number
of bytes moved. -/
def afterByteMove (s : State) : Regs :=
  let n := moveCount s
  let src := byteIndex s.cur.a s.cur.d + n
  let dst := byteIndex s.cur.x s.cur.t + n
  { s.cur.step with
    a := advancedD1 src
    d := advancedD2 s.params s.cur.d src 0
    x := advancedD1 dst
    t := advancedD2 s.params s.cur.t dst n }

/-- `LBYT` (R191). -/
def execLbyt (s : State) : Host.Outcome State Fault Refusal :=
  finish do
    let w ← memRead s (byteAddr s.cur.t s.cur.x)
    return s.setCur { s.cur.step with a := zext8 (selectByte w (isRight s.cur.x)) }

/-- `SBYT` (R192). -/
def execSbyt (s : State) : Host.Outcome State Fault Refusal :=
  finish do
    let mem ← storeByteAt s s.mem (byteAddr s.cur.t s.cur.x) (isRight s.cur.x) (rightByte s.cur.a)
    return { s.advance with mem := mem }

/-- `BFILL` (R194). -/
def execBfill (s : State) : Host.Outcome State Fault Refusal :=
  finish do
    let n := fieldLen s.params s.cur.t
    let start := byteIndex s.cur.x s.cur.t
    let mem ← fillBytes s (rightByte s.cur.a) n start
    return { s.setCur { s.cur.step with
      x := advancedD1 (start + n)
      t := advancedD2 s.params s.cur.t (start + n) 0 } with mem := mem }

/-- `MOVB`: as if every source byte were read before any is written (R195). -/
def execMovb (s : State) : Host.Outcome State Fault Refusal :=
  finish do
    let bytes ← readBytes s s.mem (moveCount s) (byteIndex s.cur.a s.cur.d)
    let mem ← writeBytes s bytes (byteIndex s.cur.x s.cur.t)
    return { s.setCur (afterByteMove s) with mem := mem }

/-- `MOVBF`: one byte at a time in ascending order (R196). -/
def execMovbf (s : State) : Host.Outcome State Fault Refusal :=
  finish do
    let mem ← copyForward s (moveCount s) (byteIndex s.cur.a s.cur.d) (byteIndex s.cur.x s.cur.t)
    return { s.setCur (afterByteMove s) with mem := mem }

end Sys2Proof.Machine
end

