-- ==== Sys2Proof/Machine/Decimal.lean ====
section
/-! DEFINITION. The decimal instructions: parameter functions under the contract R251. Spec: 45_decimal.md R240 to R251;
60_exceptions.md R468 (logs 12 and 34). -/

namespace Sys2Proof.Machine

/-! ## Operands -/

/-- The first operand: descriptor in A and D (R243). -/
def firstOperand (s : State) : DecimalOperand := .ofWords s.cur.a s.cur.d

/-- The second operand: descriptor in X and T (R243). -/
def secondOperand (s : State) : DecimalOperand := .ofWords s.cur.x s.cur.t

/-- How an operand is coded. -/
inductive DecimalForm where
  /-- packed: four bits a digit and four for the sign (R240) -/
  | bcd
  /-- one byte a digit and at most one for the sign (R241, R242) -/
  | ascii
deriving DecidableEq, Repr

/-- The form of the first operand: ASCII for `PACK` (R248). -/
def DecimalOp.firstForm : DecimalOp → DecimalForm
  | .pack => .ascii
  | _ => .bcd

/-- The form of the second operand: ASCII for `UPACK` (R249). -/
def DecimalOp.secondForm : DecimalOp → DecimalForm
  | .upack => .ascii
  | _ => .bcd

/-- How many bytes a field of `digits` digits and its sign take. -/
def DecimalForm.bytes (f : DecimalForm) (digits : Nat) : Nat :=
  match f with
  | .bcd => (digits + 2) / 2
  | .ascii => digits + 1

/-- How many words an operand's field covers (R240, R243): none where it is empty, and never more than the eight of R251
(log 12). -/
def DecimalOperand.words (o : DecimalOperand) (f : DecimalForm) : Nat :=
  if o.length = 0 then 0 else min 8 ((o.right.toNat + f.bytes o.length.toNat + 1) / 2)

/-! ## The effect of the parameter function -/

/-- `Decimal_<mnemonic>` at the operands the registers describe. -/
def decimalEffect (op : DecimalOp) (s : State) : DecimalEffect := decimal op s (firstOperand s) (secondOperand s)

/-- The fault of the access the function reports: what R463 makes of it; an access that does not fail is no fault. -/
def decimalFault (s : State) (e : DecimalEffect) : Except Fault Unit :=
  match e.fault with
  | none => .ok ()
  | some (addr, write) => (locate s addr (if write then .write else .read)).map fun _ => ()

/-- Consecutive logical words written from `addr` on, every address translated with the state `s`; a word that cannot be written
is the fault (R63, R85). -/
def writeField (s : State) : List (Option Word) → Word → Memory → Except Fault Memory
  | [], _, mem => .ok mem
  | none :: rest, addr, mem => writeField s rest (addr + 1) mem
  | some v :: rest, addr, mem => do
    let pa ← locate s addr .write
    writeField s rest (addr + 1) (mem.writeWord pa v)

/-- The two operand fields, each no further than its descriptor says (R243, R251). -/
def writeFields (op : DecimalOp) (s : State) (e : DecimalEffect) : Except Fault Memory := do
  let mem ← writeField s (e.op1.take ((firstOperand s).words op.firstForm)) s.cur.a s.mem
  writeField s (e.op2.take ((secondOperand s).words op.secondForm)) s.cur.x mem

/-- Success skips, an error does not (R244). A, D, X, T and the STS flags are the function's, but that an error sets Z (R468,
log 34); B and L stay (R251). -/
def decimalRegs (s : State) (e : DecimalEffect) : Regs :=
  { s.cur.skipIf e.ok with sts := e.sts, d := e.d, a := e.a, t := e.t, x := e.x }.raiseFlag .z (!e.ok)

/-- `COMD`'s value in A (R247). -/
def comparisonWord : Comparison → Word
  | .equal => 0
  | .greater => 1
  | .less => 0xFFFF

/-- The error code of `PACK` and `UPACK` (R244): 2 illegal code, 3 overflow. -/
def errorCode : ConversionError → BitVec 5
  | .illegalCode => 2
  | .overflow => 3

/-- D with an error code in bits 4-0 (R244). -/
def withErrorCode (d : Word) (code : BitVec 5) : Word := d.extractLsb' 5 11 ++ code

/-- `ADDD`, `SUBD`, `SHDE`: the function's effect as it is. -/
def runDecimal (op : DecimalOp) (s : State) : Except Fault State := do
  let e := decimalEffect op s
  decimalFault s e
  let mem ← writeFields op s e
  return { s.setCur (decimalRegs s e) with mem := mem }

/-- `PACK`, `UPACK`: on an error D bits 4-0 hold its code (R244, R248, R249). -/
def runConversion (op : DecimalOp) (s : State) : Except Fault State := do
  let e := decimalEffect op s
  decimalFault s e
  let mem ← writeFields op s e
  let d := if e.ok then e.d else withErrorCode e.d (errorCode e.error)
  return { s.setCur { decimalRegs s e with d := d } with mem := mem }

/-- `COMD`: no memory is written; on success A is 0, 1 or 177777₈ (R247, R251). -/
def runCompare (s : State) : Except Fault State := do
  let e := decimalEffect .comd s
  decimalFault s e
  let a := if e.ok then comparisonWord e.comparison else e.a
  return s.setCur { decimalRegs s e with a := a }

/-- `ADDD` (R245). -/
def execAddd (s : State) : Host.Outcome State Fault Refusal := finish (runDecimal .addd s)

/-- `SUBD` (R246). -/
def execSubd (s : State) : Host.Outcome State Fault Refusal := finish (runDecimal .subd s)

/-- `COMD` (R247). -/
def execComd (s : State) : Host.Outcome State Fault Refusal := finish (runCompare s)

/-- `PACK` (R248). -/
def execPack (s : State) : Host.Outcome State Fault Refusal := finish (runConversion .pack s)

/-- `UPACK` (R249). -/
def execUpack (s : State) : Host.Outcome State Fault Refusal := finish (runConversion .upack s)

/-- `SHDE` (R250). -/
def execShde (s : State) : Host.Outcome State Fault Refusal := finish (runDecimal .shde s)

end Sys2Proof.Machine
end

