-- ==== Sys2Proof/Machine/Level.lean ====
section
/-! DEFINITION. Inter-level access, register blocks, the monitor call and the switches of the interrupt and memory-management
systems. Spec: 46_exec_float_io_level.md R272 to R281; 47_memmgmt_transfer.md R292 to R297, R326, R331 to R334. -/

namespace Sys2Proof.Machine

/-- STS of a level as `IRR` and `SRB` read it: of another level bits 15-8 are drawn (R31, R272, R333). -/
def stsOfLevel (s : State) (n : Level) : Word :=
  if n = s.pil then s.stsWord else joinBytes (leftByte s.freeWord) (s.lv n).sts

/-- How many values reading STS of a level draws. -/
def stsDraws (s : State) (n : Level) : Nat := if n = s.pil then 0 else 1

/-- Replaces one register of a level; STS takes bits 7-0 only (R31, R273). -/
def Regs.setAny (q : Regs) (r : RegField) (v : Word) : Regs :=
  match r with
  | .code0 => { q with sts := rightByte v }
  | _ => q.setDest r v

/-- `IRR` (R272). -/
def execIrr (level : Level) (r : RegField) (s : State) : Host.Outcome State Fault Refusal :=
  finish do
    requirePrivilege s (.irr level r)
    return match r with
      | .code0 => (s.drawn (stsDraws s level)).setCur { s.cur.step with a := stsOfLevel s level }
      | _ => s.setCur { s.cur.step with a := (s.lv level).operand r }

/-- `IRW` (R273): the write comes after the advance, so that P of the current level is a jump (R26). -/
def execIrw (level : Level) (r : RegField) (s : State) : Host.Outcome State Fault Refusal :=
  finish do
    requirePrivilege s (.irw level r)
    return s.advance.setLv level ((s.advance.lv level).setAny r s.cur.a)

/-- The register block of eight logical words at X: P X T A D L STS B (R331). -/
structure RegBlock where
  p   : Word
  x   : Word
  t   : Word
  a   : Word
  d   : Word
  l   : Word
  sts : Word
  b   : Word
deriving DecidableEq, Repr

/-- The eight reads of `LRB` in ascending order (R332). -/
def readBlock (s : State) (ea : Word) : Except Fault RegBlock := do
  let w0 ← memRead s ea
  let w1 ← memRead s (ea + 1)
  let w2 ← memRead s (ea + 2)
  let w3 ← memRead s (ea + 3)
  let w4 ← memRead s (ea + 4)
  let w5 ← memRead s (ea + 5)
  let w6 ← memRead s (ea + 6)
  let w7 ← memRead s (ea + 7)
  return { p := w0, x := w1, t := w2, a := w3, d := w4, l := w5, sts := w6, b := w7 }

/-- The words of a block in ascending order. -/
def RegBlock.words (k : RegBlock) : List Word := [k.p, k.x, k.t, k.a, k.d, k.l, k.sts, k.b]

/-- Consecutive logical words stored from `ea` on, every address translated with the state `s` (R85). -/
def storeWords (s : State) : List Word → Word → Memory → Except Fault Memory
  | [], _, mem => .ok mem
  | v :: rest, ea, mem => do
    let pa ← locate s ea .write
    storeWords s rest (ea + 1) (mem.writeWord pa v)

/-- The registers `LRB` loads; `p` is the P they keep or get (R332). -/
def RegBlock.regs (k : RegBlock) (p : Word) : Regs :=
  { sts := rightByte k.sts, d := k.d, p := p, b := k.b, l := k.l, a := k.a, t := k.t, x := k.x }

/-- The block `SRB` stores: of the current level P points past the `SRB` (R333). -/
def blockOf (s : State) (n : Level) : RegBlock :=
  let r := s.lv n
  { p := if n = s.pil then r.p + 1 else r.p
    x := r.x, t := r.t, a := r.a, d := r.d, l := r.l, sts := stsOfLevel s n, b := r.b }

/-- `LRB`: of the current level all but P, which passes the `LRB` (R332). -/
def execLrb (level : Level) (s : State) : Host.Outcome State Fault Refusal :=
  finish do
    requirePrivilege s (.lrb level)
    let k ← readBlock s s.cur.x
    return if level = s.pil then s.setCur (k.regs (s.cur.p + 1)) else s.advance.setLv level (k.regs k.p)

/-- `SRB` (R333). -/
def execSrb (level : Level) (s : State) : Host.Outcome State Fault Refusal :=
  finish do
    requirePrivilege s (.srb level)
    let mem ← storeWords s (blockOf s level).words s.cur.x s.mem
    return { (s.drawn (stsDraws s level)).advance with mem := mem }

/-- `MON`: the call number to T of level 14, the request to PID; R446 enters level 14 at the next step (R326, R454, log 30). -/
def execMon (n : Byte) (s : State) : Host.Outcome State Fault Refusal :=
  let s' := s.advance.setLv 14 { s.advance.lv 14 with t := sext8 n }
  .next { s' with pid := setBitTo s.pid 14 true }

/-- `IOF`: the program level does not change (R277). -/
def execIof (s : State) : Host.Outcome State Fault Refusal :=
  finish do
    requirePrivilege s .iof
    return { s.advance with ioni := false }

/-- `ION`: R446 applies before the next instruction (R278). -/
def execIon (s : State) : Host.Outcome State Fault Refusal :=
  finish do
    requirePrivilege s .ion
    return { s.advance with ioni := true }

/-- `POF`: the next fetch is from physical bank 0 (R280). -/
def execPof (s : State) : Host.Outcome State Fault Refusal :=
  finish do
    requirePrivilege s .pof
    return { s.advance with poni := false }

/-- `PIOF`: POF and IOF (R293). -/
def execPiof (s : State) : Host.Outcome State Fault Refusal :=
  finish do
    requirePrivilege s .piof
    return { s.advance with poni := false, ioni := false }

/-- `PION`: PON and ION (R294). -/
def execPion (s : State) : Host.Outcome State Fault Refusal :=
  finish do
    requirePrivilege s .pion
    return { s.advance with poni := true, ioni := true }

/-- `PON`: the next fetch is translated (R295). -/
def execPon (s : State) : Host.Outcome State Fault Refusal :=
  finish do
    requirePrivilege s .pon
    return { s.advance with poni := true }

/-- `REX`: 19-bit physical addresses (R296). -/
def execRex (s : State) : Host.Outcome State Fault Refusal :=
  finish do
    requirePrivilege s .rex
    return { s.advance with sexi := false }

/-- `SEX`: 24-bit physical addresses (R297). -/
def execSex (s : State) : Host.Outcome State Fault Refusal :=
  finish do
    requirePrivilege s .sex
    return { s.advance with sexi := true }

/-- `OPCOM`: the machine stops (R279, R466). -/
def execOpcom (s : State) : Host.Outcome State Fault Refusal :=
  finish do
    requirePrivilege s .opcom
    return halt s .opcom

/-- `WAIT`: stop with the interrupt system off; nothing on level 0; else give up priority (R281). -/
def execWait (n : Byte) (s : State) : Host.Outcome State Fault Refusal :=
  finish do
    requirePrivilege s (.wait n)
    return if !s.ioni then halt s (.wait n) else if s.pil = 0 then s.advance else giveUpPriority s

end Sys2Proof.Machine
end

