-- ==== Sys2Proof/Machine/Float.lean ====
section
/-! DEFINITION. Floating point: operand transfer, registers and Z are the spec's, the arithmetic is by constants without a body
(log 13). Spec: 49_sequencing_shift_skip_stack.md R420 to R426; 46_exec_float_io_level.md R262, R263. -/

namespace Sys2Proof.Machine

/-- The floating accumulator: T takes no part in the 32-bit format (R7, R22). -/
def accOf (s : State) : Acc := { t := if s.params.float48 then s.cur.t else 0, a := s.cur.a, d := s.cur.d }

/-- The accumulator written; in the 32-bit format T is unchanged. -/
def Regs.setAcc (r : Regs) (float48 : Bool) (v : Acc) : Regs :=
  { r with t := if float48 then v.t else r.t, a := v.a, d := v.d }

/-- A memory operand: three words T, A, D in the 48-bit format, two words A, D in the 32-bit format (R420, R68). -/
def floatOperand (s : State) (m : MemOperand) : Except Fault Acc := do
  let ea ← effAddr s m
  if s.params.float48 then
    let t ← memRead s ea
    let a ← memRead s (ea + 1)
    let d ← memRead s (ea + 2)
    return { t := t, a := a, d := d }
  else
    let a ← memRead s ea
    let d ← memRead s (ea + 1)
    return { t := 0, a := a, d := d }

/-- The result of a floating operation in the accumulator, Z set on an error and never cleared (R423 to R426). -/
def floatResult (s : State) (v : Acc × Bool) : State :=
  s.setCur ((s.cur.step.setAcc s.params.float48 v.1).raiseFlag .z v.2)

/-- `LDF`: a plain copy (R421). -/
def execLdf (m : MemOperand) (s : State) : Host.Outcome State Fault Refusal :=
  finish do
    let v ← floatOperand s m
    return s.setCur (s.cur.step.setAcc s.params.float48 v)

/-- `STF` (R422). -/
def execStf (m : MemOperand) (s : State) : Host.Outcome State Fault Refusal :=
  finish do
    let ea ← effAddr s m
    let words := if s.params.float48 then [s.cur.t, s.cur.a, s.cur.d] else [s.cur.a, s.cur.d]
    let mem ← storeWords s words ea s.mem
    return { s.advance with mem := mem }

/-- `FAD` (R423). -/
def execFad (m : MemOperand) (s : State) : Host.Outcome State Fault Refusal :=
  finish do
    let y ← floatOperand s m
    return floatResult s (Config.fAdd s.params.float48 (s.cur.flag .tg) (accOf s) y)

/-- `FSB` (R424). -/
def execFsb (m : MemOperand) (s : State) : Host.Outcome State Fault Refusal :=
  finish do
    let y ← floatOperand s m
    return floatResult s (Config.fSub s.params.float48 (s.cur.flag .tg) (accOf s) y)

/-- `FMU` (R425). -/
def execFmu (m : MemOperand) (s : State) : Host.Outcome State Fault Refusal :=
  finish do
    let y ← floatOperand s m
    return floatResult s (Config.fMul s.params.float48 (s.cur.flag .tg) (accOf s) y)

/-- `FDV`: a zero divisor reports an error (R426). -/
def execFdv (m : MemOperand) (s : State) : Host.Outcome State Fault Refusal :=
  finish do
    let y ← floatOperand s m
    let q := Config.fDiv s.params.float48 (s.cur.flag .tg) (accOf s) y
    return floatResult s (q.1, q.2 || Config.fIsZero s.params.float48 y)

/-- `NLZ` (R262). -/
def execNlz (scale : Byte) (s : State) : Host.Outcome State Fault Refusal :=
  if s.params.float48 then
    .next (s.setCur (s.cur.step.setAcc true (Config.nlz48 s.cur.a scale)))
  else
    let v := Config.nlz32 s.cur.a scale
    .next (s.setCur { s.cur.step with a := v.1, d := v.2 })

/-- `Dnz` as R263 constrains it: 0 and no overflow where the conversion underflows. -/
def denormalised (s : State) (scale : Byte) : Word × Bool :=
  if Config.dnzUnderflow s.params.float48 (accOf s).t s.cur.a s.cur.d scale then (0, false)
  else Config.dnz s.params.float48 (accOf s).t s.cur.a s.cur.d scale

/-- `DNZ`: D is cleared, Z set on overflow; in the 48-bit format T is drawn (R263). -/
def execDnz (scale : Byte) (s : State) : Host.Outcome State Fault Refusal :=
  let v := denormalised s scale
  let r := { s.cur.step with a := v.1, d := 0 }
  if s.params.float48 then .next ((s.drawn 1).setCur ({ r with t := s.freeWord }.raiseFlag .z v.2))
  else .next (s.setCur (r.raiseFlag .z v.2))

end Sys2Proof.Machine
end

