-- ==== Sys2Proof/Machine/IO.lean ====
section
/-! DEFINITION. Input and output. Spec: 46_exec_float_io_level.md R265 to R268, R276; 70_reset_and_hazards.md R492. -/

namespace Sys2Proof.Machine

/-- An event appended to the I/O trace. -/
def State.traced (s : State) (e : IoEvent) : State := { s with ioTrace := s.ioTrace ++ [e] }

/-- The exchange with device register `dev`: bit 0 = 0 input to A, 1 output of A (R64, R265). -/
def exchange (s : State) (dev : Word) : State :=
  if dev.getLsbD 0 then (s.traced (.write dev s.cur.a)).advance
  else (s.traced (.read dev (ioRead s dev))).setCur { s.cur.step with a := ioRead s dev }

/-- The program level of an `IDENT` level code (R276). -/
def identLevel (code : BitVec 6) : Level :=
  if code = 0o04#6 then 10 else if code = 0o11#6 then 11 else if code = 0o22#6 then 12 else 13

/-- `IOX` (R265). -/
def execIox (addr : BitVec 11) (s : State) : Host.Outcome State Fault Refusal :=
  finish do
    requirePrivilege s (.iox addr)
    return exchange s (addr.setWidth 16)

/-- `IOXT` (R266). -/
def execIoxt (s : State) : Host.Outcome State Fault Refusal :=
  finish do
    requirePrivilege s .ioxt
    return exchange s s.cur.t

/-- `IOT`: performs no operation in any mode (R113, R267). -/
def execIot (addr : BitVec 11) (s : State) : Host.Outcome State Fault Refusal :=
  .fault (.illegalInstruction (encode s.params.opcodes (.iot addr)))

/-- `IDENT`: PID, PIE and PIL do not change (R276, R452). -/
def execIdent (code : BitVec 6) (s : State) : Host.Outcome State Fault Refusal :=
  finish do
    requirePrivilege s (.ident code)
    requireOperand s (.ident code) .identLevel (identOk code)
    let answer := identCode s (identLevel code)
    return (s.traced (.ident (identLevel code) answer)).setCur { s.cur.step with a := answer }

end Sys2Proof.Machine
end

