-- ==== Sys2Proof/Machine/Internal.lean ====
section
/-! DEFINITION. Register transfer: the internal registers. Spec: 48_register_ops.md R369 to R374; tables: 10_state.md R40, R41. A
change of PID or PIE takes effect through R446 at the start of the next step (R374). -/

namespace Sys2Proof.Machine

/-- What `TRA` reads of a register the model does not hold: a fresh value (R46). -/
def traUnheld (s : State) : State := (s.drawn 1).setCur { s.cur.step with a := s.freeWord }

/-- `TRA` (R372). -/
def execTra (n : BitVec 4) (s : State) : Host.Outcome State Fault Refusal :=
  finish do
    requirePrivilege s (.tra n)
    requireOperand s (.tra n) .traRegister (traOk n)
    return match n.toNat with
      | 1 => s.setCur { s.cur.step with a := s.stsWord }
      | 6 => s.setCur { s.cur.step with a := s.pid }
      | 7 => s.setCur { s.cur.step with a := s.pie }
      | _ => traUnheld s

/-- `TRR` (R373); of STS bits 7-0 only (R31). The registers the model does not hold take no value (R41, log 26). -/
def execTrr (n : BitVec 4) (s : State) : Host.Outcome State Fault Refusal :=
  finish do
    requirePrivilege s (.trr n)
    requireOperand s (.trr n) .trrRegister (trrOk n)
    return match n.toNat with
      | 1 => s.setCur { s.cur.step with sts := rightByte s.cur.a }
      | 3 => { s.advance with pcr := s.cur.a }
      | 5 => { s.advance with iie := s.cur.a }
      | 6 => { s.advance with pid := s.cur.a }
      | 7 => { s.advance with pie := s.cur.a }
      | _ => s.advance

/-- `MST` (R370). -/
def execMst (n : BitVec 4) (s : State) : Host.Outcome State Fault Refusal :=
  finish do
    requirePrivilege s (.mst n)
    requireOperand s (.mst n) .mstRegister (maskedOk n)
    return match n.toNat with
      | 1 => s.setCur { s.cur.step with sts := s.cur.sts ||| rightByte s.cur.a }
      | 6 => { s.advance with pid := s.pid ||| s.cur.a }
      | _ => { s.advance with pie := s.pie ||| s.cur.a }

/-- `MCL` (R371). -/
def execMcl (n : BitVec 4) (s : State) : Host.Outcome State Fault Refusal :=
  finish do
    requirePrivilege s (.mcl n)
    requireOperand s (.mcl n) .mclRegister (maskedOk n)
    return match n.toNat with
      | 1 => s.setCur { s.cur.step with sts := s.cur.sts &&& ~~~ rightByte s.cur.a }
      | 6 => { s.advance with pid := s.pid &&& ~~~ s.cur.a }
      | _ => { s.advance with pie := s.pie &&& ~~~ s.cur.a }

end Sys2Proof.Machine
end

