-- ==== Sys2Proof/Machine/Jump.lean ====
section
/-! DEFINITION. Sequencing. Spec: 49_sequencing_shift_skip_stack.md R380 to R391. -/

namespace Sys2Proof.Machine

/-- P + disp if the condition holds, else P + 1 (R380). -/
def jumpIf (r : Regs) (c : Bool) (disp : Byte) : Regs := if c then { r with p := r.p + sext8 disp } else r.step

/-- "Positive" as `JAP` and `JPC` test it: the sign bit clear, and not zero unless JAP_ZERO_JUMPS (R383, R386). -/
def positive (s : State) (v : Word) : Bool := !v.msb && (v != 0 || s.params.japZeroJumps)

/-- `JAP` (R383). -/
def execJap (disp : Byte) (s : State) : Host.Outcome State Fault Refusal :=
  .next (s.setCur (jumpIf s.cur (positive s s.cur.a) disp))

/-- `JAN` (R382). -/
def execJan (disp : Byte) (s : State) : Host.Outcome State Fault Refusal :=
  .next (s.setCur (jumpIf s.cur (s.cur.a.msb) disp))

/-- `JAZ` (R384). -/
def execJaz (disp : Byte) (s : State) : Host.Outcome State Fault Refusal :=
  .next (s.setCur (jumpIf s.cur (s.cur.a == 0) disp))

/-- `JAF` (R381). -/
def execJaf (disp : Byte) (s : State) : Host.Outcome State Fault Refusal :=
  .next (s.setCur (jumpIf s.cur (s.cur.a != 0) disp))

/-- `JXZ` (R388). -/
def execJxz (disp : Byte) (s : State) : Host.Outcome State Fault Refusal :=
  .next (s.setCur (jumpIf s.cur (s.cur.x == 0) disp))

/-- `JXN` (R387). -/
def execJxn (disp : Byte) (s : State) : Host.Outcome State Fault Refusal :=
  .next (s.setCur (jumpIf s.cur (s.cur.x.msb) disp))

/-- `JPC`: X is incremented first, whether or not it jumps (R386). -/
def execJpc (disp : Byte) (s : State) : Host.Outcome State Fault Refusal :=
  .next (s.setCur (jumpIf { s.cur with x := s.cur.x + 1 } (positive s (s.cur.x + 1)) disp))

/-- `JNC`: X is incremented first, whether or not it jumps (R385). -/
def execJnc (disp : Byte) (s : State) : Host.Outcome State Fault Refusal :=
  .next (s.setCur (jumpIf { s.cur with x := s.cur.x + 1 } ((s.cur.x + 1).msb) disp))

/-- `JMP` (R389). -/
def execJmp (m : MemOperand) (s : State) : Host.Outcome State Fault Refusal :=
  finish do
    let ea ← effAddr s m
    return s.setCur { s.cur with p := ea }

/-- `JPL`: L gets the address after the instruction (R390). -/
def execJpl (m : MemOperand) (s : State) : Host.Outcome State Fault Refusal :=
  finish do
    let ea ← effAddr s m
    return s.setCur { s.cur with l := s.cur.p + 1, p := ea }

end Sys2Proof.Machine
end

