-- ==== Sys2Proof/Machine/Physical.lean ====
section
/-! DEFINITION. Memory examine and test, physical memory transfer, physical memory control. Spec: 47_memmgmt_transfer.md R290, R291,
R316 to R323, R328, R329. -/

namespace Sys2Proof.Machine

/-- `RDUS`: no cache, so a plain logical read (R290). -/
def execRdus (s : State) : Host.Outcome State Fault Refusal :=
  finish do
    requirePrivilege s .rdus
    let w ← memRead s s.cur.t
    return s.setCur { s.cur.step with a := w }

/-- `TSET`: one translation, as a write; read and write of all ones as one action (R291, R83). -/
def execTset (s : State) : Host.Outcome State Fault Refusal :=
  finish do
    requirePrivilege s .tset
    let pa ← locate s s.cur.t .write
    return (s.physWrite pa 0xFFFF).setCur { s.cur.step with a := s.physRead pa }

/-- The physical word at X + Δ in the bank of T (R316). -/
def txOperand (s : State) (delta : BitVec 3) : PhysAddr := txAddr s.cur (s.cur.x + deltaWord delta)

/-- The physical word after it, in the same bank (R320). -/
def txNext (s : State) (delta : BitVec 3) : PhysAddr := txAddr s.cur (s.cur.x + deltaWord delta + 1)

/-- `LDATX` (R317). -/
def execLdatx (delta : BitVec 3) (s : State) : Host.Outcome State Fault Refusal :=
  finish do
    requirePrivilege s (.ldatx delta)
    let w ← physLoad s (txOperand s delta)
    return s.setCur { s.cur.step with a := w }

/-- `LDXTX`: the old X forms the address (R318). -/
def execLdxtx (delta : BitVec 3) (s : State) : Host.Outcome State Fault Refusal :=
  finish do
    requirePrivilege s (.ldxtx delta)
    let w ← physLoad s (txOperand s delta)
    return s.setCur { s.cur.step with x := w }

/-- `LDBTX` (R319). -/
def execLdbtx (delta : BitVec 3) (s : State) : Host.Outcome State Fault Refusal :=
  finish do
    requirePrivilege s (.ldbtx delta)
    let w ← physLoad s (txOperand s delta)
    return s.setCur { s.cur.step with b := pageTableSlot w }

/-- `LDDTX` (R320). -/
def execLddtx (delta : BitVec 3) (s : State) : Host.Outcome State Fault Refusal :=
  finish do
    requirePrivilege s (.lddtx delta)
    let hi ← physLoad s (txOperand s delta)
    let lo ← physLoad s (txNext s delta)
    return s.setCur { s.cur.step with a := hi, d := lo }

/-- `STATX` (R321). -/
def execStatx (delta : BitVec 3) (s : State) : Host.Outcome State Fault Refusal :=
  finish do
    requirePrivilege s (.statx delta)
    physStore s.advance (txOperand s delta) s.cur.a

/-- `STZTX` (R322). -/
def execStztx (delta : BitVec 3) (s : State) : Host.Outcome State Fault Refusal :=
  finish do
    requirePrivilege s (.stztx delta)
    physStore s.advance (txOperand s delta) 0

/-- `STDTX` (R323). -/
def execStdtx (delta : BitVec 3) (s : State) : Host.Outcome State Fault Refusal :=
  finish do
    requirePrivilege s (.stdtx delta)
    let s1 ← physStore s.advance (txOperand s delta) s.cur.a
    physStore s1 (txNext s delta) s.cur.d

/-- `DEPO`: T to the physical word A[7:0], D (R328). -/
def execDepo (s : State) : Host.Outcome State Fault Refusal :=
  finish do
    requirePrivilege s .depo
    physStore s.advance (physAddr s.cur.a s.cur.d) s.cur.t

/-- `EXAM` (R329). -/
def execExam (s : State) : Host.Outcome State Fault Refusal :=
  finish do
    requirePrivilege s .exam
    let w ← physLoad s (physAddr s.cur.a s.cur.d)
    return s.setCur { s.cur.step with t := w }

end Sys2Proof.Machine
end

