-- ==== Sys2Proof/Machine/Register.lean ====
section
/-! DEFINITION. Register operations. Spec: 48_register_ops.md R340 to R359. -/

namespace Sys2Proof.Machine

/-- `RADD` and its six assembler names: the adder on the operands, C, O, Q, and the write of the destination (R344). A word
with both ADC and AD1 is a no-operation (R115, R344). -/
def addRegs (adc ad1 cm1 cld : Bool) (sr dr : RegField) (s : State) : State :=
  if adc && ad1 then s.advance
  else
    let cin := if ad1 then true else if adc then s.cur.flag .c else false
    let sum := adder (destOperand s.cur dr cld) (sourceOperand s.cur sr cm1) cin
    s.setCur ((s.cur.step.addFlags sum).setDest dr sum.res)

/-- A logical operation: the destination written, no flag (R352 to R354, R356). -/
def logicRegs (op : Word → Word → Word) (cm1 cld : Bool) (sr dr : RegField) (s : State) : State :=
  s.setCur (s.cur.step.setDest dr (op (destOperand s.cur dr cld) (sourceOperand s.cur sr cm1)))

/-- `RADD` (R344). -/
def execRadd (adc ad1 cm1 cld : Bool) (sr dr : RegField) (s : State) : Host.Outcome State Fault Refusal :=
  .next (addRegs adc ad1 cm1 cld sr dr s)

/-- `COPY` = `RADD CLD` (R346). -/
def execCopy (adc ad1 cm1 : Bool) (sr dr : RegField) (s : State) : Host.Outcome State Fault Refusal :=
  .next (addRegs adc ad1 cm1 true sr dr s)

/-- `RSUB` = `RADD AD1 CM1` (R347). -/
def execRsub (cld : Bool) (sr dr : RegField) (s : State) : Host.Outcome State Fault Refusal :=
  .next (addRegs false true true cld sr dr s)

/-- `RINC` = `RADD AD1` with source 0 (R348). -/
def execRinc (dr : RegField) (s : State) : Host.Outcome State Fault Refusal :=
  .next (addRegs false true false false .code0 dr s)

/-- `RDCR` = `RADD CM1` with source 0 (R349). -/
def execRdcr (dr : RegField) (s : State) : Host.Outcome State Fault Refusal :=
  .next (addRegs false false true false .code0 dr s)

/-- `RCLR` = `RADD CLD` with source 0 (R350). -/
def execRclr (dr : RegField) (s : State) : Host.Outcome State Fault Refusal :=
  .next (addRegs false false false true .code0 dr s)

/-- `EXIT` = `COPY SL DP` (R351). -/
def execExit (s : State) : Host.Outcome State Fault Refusal :=
  .next (addRegs false false false true .l .p s)

/-- `RAND` (R352). -/
def execRand (cm1 cld : Bool) (sr dr : RegField) (s : State) : Host.Outcome State Fault Refusal :=
  .next (logicRegs (fun d v => d &&& v) cm1 cld sr dr s)

/-- `REXO` (R353). -/
def execRexo (cm1 cld : Bool) (sr dr : RegField) (s : State) : Host.Outcome State Fault Refusal :=
  .next (logicRegs (fun d v => d ^^^ v) cm1 cld sr dr s)

/-- `RORA` (R354). -/
def execRora (cm1 cld : Bool) (sr dr : RegField) (s : State) : Host.Outcome State Fault Refusal :=
  .next (logicRegs (fun d v => d ||| v) cm1 cld sr dr s)

/-- `SWAP`: the source register gets the destination operand, then the destination gets the source operand (R355). -/
def execSwap (cm1 cld : Bool) (sr dr : RegField) (s : State) : Host.Outcome State Fault Refusal :=
  let r := s.cur.step.setDest sr (destOperand s.cur dr cld)
  .next (s.setCur (r.setDest dr (sourceOperand s.cur sr cm1)))

/-- C, O, Q drawn: the page lists them without a word on how (R357, R358; log 7, log 25). -/
def Regs.drawFlags (r : Regs) (s : State) : Regs :=
  ((r.setFlag .c (Config.freeBit s.draws)).setFlag .o (Config.freeBit (s.draws + 1))).setFlag .q
    (Config.freeBit (s.draws + 2))

/-- The double accumulator AD as a signed number (R22). -/
def doubleAcc (r : Regs) : Int := (r.a ++ r.d : BitVec 32).toInt

/-- `RMPY`: the exact signed product in AD; C, O, Q drawn (R357). -/
def execRmpy (sr dr : RegField) (s : State) : Host.Outcome State Fault Refusal :=
  let p : BitVec 32 := BitVec.ofInt 32 (signedProduct (s.cur.operand sr) (s.cur.operand dr))
  .next ((s.drawn 3).setCur
    { s.cur.step.drawFlags s with a := p.extractLsb' 16 16, d := p.extractLsb' 0 16 })

/-- Whether `RDIV` overflows: a zero divisor, or a quotient outside a word (R358). -/
def divideOverflow (n v : Int) : Bool :=
  decide (v = 0) || decide (n.tdiv v < -32768) || decide (32767 < n.tdiv v)

/-- `RDIV`: quotient truncated toward zero in A, remainder in D; on overflow Z is set and A and D are drawn; C, O, Q drawn
(R358). The dr bits are ignored. -/
def execRdiv (sr _dr : RegField) (s : State) : Host.Outcome State Fault Refusal :=
  let n := doubleAcc s.cur
  let v := (s.cur.operand sr).toInt
  let r := s.cur.step.drawFlags s
  if divideOverflow n v then
    .next ((s.drawn 5).setCur
      { r.setFlag .z true with a := Config.freeWord (s.draws + 3), d := Config.freeWord (s.draws + 4) })
  else
    .next ((s.drawn 3).setCur { r with a := BitVec.ofInt 16 (n.tdiv v), d := BitVec.ofInt 16 (n.tmod v) })

/-- `MIX3` (R359). -/
def execMix3 (s : State) : Host.Outcome State Fault Refusal :=
  .next (s.setCur { s.cur.step with x := (s.cur.a - 1) * 3 })

end Sys2Proof.Machine
end

