-- ==== Sys2Proof/Machine/Shift.lean ====
section
/-! DEFINITION. Shift instructions. Spec: 49_sequencing_shift_skip_stack.md R395 to R400. M is the only flag written. -/

namespace Sys2Proof.Machine

/-- A 16-bit shift with the link M of the level (R395). -/
def shiftWord (s : State) (ty : ShiftType) (count : BitVec 6) (v : Word) : Shifted 16 :=
  shift ty count { v := v, m := s.cur.flag .m }

/-- `SHT` (R396). -/
def execSht (ty : ShiftType) (count : BitVec 6) (s : State) : Host.Outcome State Fault Refusal :=
  let x := shiftWord s ty count s.cur.t
  .next (s.setCur { s.cur.step.setFlag .m x.m with t := x.v })

/-- `SHD` (R397). -/
def execShd (ty : ShiftType) (count : BitVec 6) (s : State) : Host.Outcome State Fault Refusal :=
  let x := shiftWord s ty count s.cur.d
  .next (s.setCur { s.cur.step.setFlag .m x.m with d := x.v })

/-- `SHA` (R398). -/
def execSha (ty : ShiftType) (count : BitVec 6) (s : State) : Host.Outcome State Fault Refusal :=
  let x := shiftWord s ty count s.cur.a
  .next (s.setCur { s.cur.step.setFlag .m x.m with a := x.v })

/-- `SAD`: A and D connected, A the upper half (R399). -/
def execSad (ty : ShiftType) (count : BitVec 6) (s : State) : Host.Outcome State Fault Refusal :=
  let x : Shifted 32 := shift ty count { v := s.cur.a ++ s.cur.d, m := s.cur.flag .m }
  .next (s.setCur
    { s.cur.step.setFlag .m x.m with a := x.v.extractLsb' 16 16, d := x.v.extractLsb' 0 16 })

end Sys2Proof.Machine
end

