-- ==== Sys2Proof/Machine/Sintran.lean ====
section
/-! DEFINITION. The SINTRAN III control instructions. Spec: 44_sintran_control.md R200 to R234. All are privileged (R200) and
check that first (R467). -/

namespace Sys2Proof.Machine

/-! ## Global pointers -/

/-- `WGLOB` (R201). -/
def execWglob (s : State) : Host.Outcome State Fault Refusal :=
  finish do
    requirePrivilege s .wglob
    return { s.advance with stbnk := s.cur.t, stsrt := s.cur.a, cmbnk := s.cur.d }

/-- `RGLOB` (R202). -/
def execRglob (s : State) : Host.Outcome State Fault Refusal :=
  finish do
    requirePrivilege s .rglob
    return s.setCur { s.cur.step with t := s.stbnk, a := s.stsrt, d := s.cmbnk }

/-! ## Bit and byte arrays -/

/-- The addressed bit of a bit-array word becomes K (R205, R207). -/
def storeArrayBit (s : State) (w : Word) : Word := setBitTo w (bitArrayPos s.params s.cur.a) (s.cur.flag .k)

/-- K becomes the addressed bit of a bit-array word (R204, R206). -/
def loadArrayBit (s : State) (w : Word) : State :=
  s.setCur (s.cur.step.setFlag .k (w.getLsbD (bitArrayPos s.params s.cur.a)))

/-- The physical word of a bit array: bank T, start X, bit index A (R206). -/
def physBitAddr (r : Regs) : PhysAddr := physAddr r.t (bitArrayAddr r.x r.a)

/-- The physical word of a byte array: bank D, start T, byte index X (R208). -/
def physByteAddr (r : Regs) : PhysAddr := physAddr r.d (byteAddr r.t r.x)

/-- `LBIT` (R204). -/
def execLbit (s : State) : Host.Outcome State Fault Refusal :=
  finish do
    requirePrivilege s .lbit
    let w ← memRead s (bitArrayAddr s.cur.x s.cur.a)
    return loadArrayBit s w

/-- `SBIT` (R205). -/
def execSbit (s : State) : Host.Outcome State Fault Refusal :=
  finish do
    requirePrivilege s .sbit
    let w ← memRead s (bitArrayAddr s.cur.x s.cur.a)
    storeWord s (bitArrayAddr s.cur.x s.cur.a) (storeArrayBit s w)

/-- `LBITP` (R206). -/
def execLbitp (s : State) : Host.Outcome State Fault Refusal :=
  finish do
    requirePrivilege s .lbitp
    let w ← physLoad s (physBitAddr s.cur)
    return loadArrayBit s w

/-- `SBITP` (R207). -/
def execSbitp (s : State) : Host.Outcome State Fault Refusal :=
  finish do
    requirePrivilege s .sbitp
    let w ← physLoad s (physBitAddr s.cur)
    physStore s.advance (physBitAddr s.cur) (storeArrayBit s w)

/-- `LBYTP` (R208). -/
def execLbytp (s : State) : Host.Outcome State Fault Refusal :=
  finish do
    requirePrivilege s .lbytp
    let w ← physLoad s (physByteAddr s.cur)
    return s.setCur { s.cur.step with a := zext8 (selectByte w (isRight s.cur.x)) }

/-- `SBYTP` (R209). -/
def execSbytp (s : State) : Host.Outcome State Fault Refusal :=
  finish do
    requirePrivilege s .sbytp
    let w ← physLoad s (physByteAddr s.cur)
    physStore s.advance (physByteAddr s.cur) (mergeByte w (isRight s.cur.x) (rightByte s.cur.a))

/-- `RDUSP`: no cache, so a plain physical read (R210). -/
def execRdusp (s : State) : Host.Outcome State Fault Refusal :=
  finish do
    requirePrivilege s .rdusp
    let w ← physLoad s (physAddr s.cur.t s.cur.x)
    return s.setCur { s.cur.step with a := w }

/-- `TSETP`: read and write of all ones as one action (R231, R83). -/
def execTsetp (s : State) : Host.Outcome State Fault Refusal :=
  finish do
    requirePrivilege s .tsetp
    let w ← physLoad s (physAddr s.cur.t s.cur.x)
    physStore (s.setCur { s.cur.step with a := w }) (physAddr s.cur.t s.cur.x) 0xFFFF

/-! ## Page-table loops. The instruction is the loop the source lists, on the state as the loop leaves it (log 19). -/

/-- The most iterations before the instruction counts as stuck (R211, log 21). -/
def loopBound : Nat := 65536

/-- One pass of the loop of `SETPT`: LDDTX 20, BSET ZRO 130 DA, LDBTX 10, STD ,B, LDXTX 00 (R211). -/
def setptOnce (s : State) : Except Fault State := do
  let a ← physLoad s (txAddr s.cur (s.cur.x + 2))
  let d ← physLoad s (txAddr s.cur (s.cur.x + 3))
  let w ← physLoad s (txAddr s.cur (s.cur.x + 1))
  let s1 := s.setCur { s.cur with a := setBitTo a 11 false, d := d, b := pageTableSlot w }
  let pa0 ← locate s1 (pageTableSlot w) .write
  let pa1 ← locate s1 (pageTableSlot w + 1) .write
  let s2 := (s1.physWrite pa0 (setBitTo a 11 false)).physWrite pa1 d
  let x ← physLoad s2 (txAddr s.cur s.cur.x)
  return s2.setCur { s2.cur with x := x }

/-- One pass of the loop of `CLEPT`: LDBTX 10, LDA ,B, JAZ *3, STATX 20, STZ ,B, LDXTX 00 (R212). -/
def cleptOnce (s : State) : Except Fault State := do
  let w ← physLoad s (txAddr s.cur (s.cur.x + 1))
  let s1 := s.setCur { s.cur with b := pageTableSlot w }
  let a ← memRead s1 (pageTableSlot w)
  let s2 := s1.setCur { s1.cur with a := a }
  let s3 ← if a = 0 then pure s2 else do
    let s' ← physStore s2 (txAddr s.cur (s.cur.x + 2)) a
    let pa ← locate s' (pageTableSlot w) .write
    pure (s'.physWrite pa 0)
  let x ← physLoad s3 (txAddr s.cur s.cur.x)
  return s3.setCur { s3.cur with x := x }

/-- A loop run until X is 0, at most `n` times (R211). -/
def loopUntilXZero (once : State → Except Fault State) : Nat → State → Except Fault State
  | 0, s => if s.cur.x = 0 then .ok s else .error .stuck
  | n + 1, s => if s.cur.x = 0 then .ok s else do
    let s' ← once s
    loopUntilXZero once n s'

/-- `SETPT` (R211). -/
def execSetpt (s : State) : Host.Outcome State Fault Refusal :=
  finish do
    requirePrivilege s .setpt
    let s' ← loopUntilXZero setptOnce loopBound s
    return s'.advance

/-- `CLEPT` (R212). -/
def execClept (s : State) : Host.Outcome State Fault Refusal :=
  finish do
    requirePrivilege s .clept
    let s' ← loopUntilXZero cleptOnce loopBound s
    return s'.advance

/-! ## Instructions whose algorithm is not in the source (R213 to R222, log 11) -/

/-- Whether an access can fault at all (R463): with translation off and all 2^24 words installed none can. -/
def anyAccessCanFault (s : State) : Bool := s.poni || decide (s.params.physWords < 2 ^ 24)

/-- The fault a parameter function reports, where an access can fault. -/
def reportedFault (s : State) (e : SintranEffect) : Except Fault Unit :=
  if anyAccessCanFault s then
    match e.fault with
    | some (pa, kind) => .error (.translationFault pa kind)
    | none => .ok ()
  else .ok ()

/-- The words a parameter function writes, in order; a word that is not installed is the fault (R63). -/
def sintranWrites (s : State) : List (PhysAddr × Word) → Except Fault State
  | [] => .ok s
  | w :: rest => do
    let s' ← physStore s w.1 w.2
    sintranWrites s' rest

/-- The registers and pointers a parameter function leaves: what R222 lets it change, P advanced by the instruction. -/
def sintranRegisters (s : State) (e : SintranEffect) : State :=
  { s.setCur { s.cur.step with sts := e.sts, d := e.d, b := e.b, l := e.l, a := e.a, t := e.t, x := e.x } with
    stbnk := e.stbnk, stsrt := e.stsrt, cmbnk := e.cmbnk }

/-- An uninterpreted instruction: the privilege check, then its parameter function under the contract R222. -/
def runSintran (op : SintranOp) (i : Instr) (s : State) : Except Fault State := do
  requirePrivilege s i
  reportedFault s (sintran op s)
  sintranWrites (sintranRegisters s (sintran op s)) (sintran op s).writes

/-- `CLEPU` (R213, R222). -/
def execClepu (s : State) : Host.Outcome State Fault Refusal := finish (runSintran .clepu .clepu s)

/-- `CHREENTPAGES` (R214, R222). -/
def execChreentpages (s : State) : Host.Outcome State Fault Refusal := finish (runSintran .chreentpages .chreentpages s)

/-- `CLNREENT` (R215, R222). -/
def execClnreent (s : State) : Host.Outcome State Fault Refusal := finish (runSintran .clnreent .clnreent s)

/-- `CLPT` (R216, R222). -/
def execClpt (s : State) : Host.Outcome State Fault Refusal := finish (runSintran .clpt .clpt s)

/-- `CNREK` (R217, R222). -/
def execCnrek (s : State) : Host.Outcome State Fault Refusal := finish (runSintran .cnrek .cnrek s)

/-- `ENPT` (R218, R222). -/
def execEnpt (s : State) : Host.Outcome State Fault Refusal := finish (runSintran .enpt .enpt s)

/-- `INSPL` (R219, R222). -/
def execInspl (s : State) : Host.Outcome State Fault Refusal := finish (runSintran .inspl .inspl s)

/-- `REMPL` (R220, R222). -/
def execRempl (s : State) : Host.Outcome State Fault Refusal := finish (runSintran .rempl .rempl s)

/-- `REPT` (R221, R222). -/
def execRept (s : State) : Host.Outcome State Fault Refusal := finish (runSintran .rept .rept s)

/-! ## Segment-table and core-map bank (R225 to R234) -/

/-- The physical address of a segment-table entry (R225). -/
def segmentEntry (s : State) (delta : BitVec 3) : PhysAddr := physAddr s.stbnk (s.cur.b + deltaWord delta)

/-- The physical address of a core-map entry (R225). -/
def coreMapEntry (s : State) (delta : BitVec 3) : PhysAddr := physAddr s.cmbnk (s.cur.b + deltaWord delta)

/-- `LASB` (R226). -/
def execLasb (delta : BitVec 3) (s : State) : Host.Outcome State Fault Refusal :=
  finish do
    requirePrivilege s (.lasb delta)
    let w ← physLoad s (segmentEntry s delta)
    return s.setCur { s.cur.step with a := w }

/-- `LACB` (R228). -/
def execLacb (delta : BitVec 3) (s : State) : Host.Outcome State Fault Refusal :=
  finish do
    requirePrivilege s (.lacb delta)
    let w ← physLoad s (coreMapEntry s delta)
    return s.setCur { s.cur.step with a := w }

/-- `LXSB` (R230). -/
def execLxsb (delta : BitVec 3) (s : State) : Host.Outcome State Fault Refusal :=
  finish do
    requirePrivilege s (.lxsb delta)
    let w ← physLoad s (segmentEntry s delta)
    return s.setCur { s.cur.step with x := w }

/-- `LXCB` (R232). -/
def execLxcb (delta : BitVec 3) (s : State) : Host.Outcome State Fault Refusal :=
  finish do
    requirePrivilege s (.lxcb delta)
    let w ← physLoad s (coreMapEntry s delta)
    return s.setCur { s.cur.step with x := w }

/-- `SASB` (R227). -/
def execSasb (delta : BitVec 3) (s : State) : Host.Outcome State Fault Refusal :=
  finish do
    requirePrivilege s (.sasb delta)
    physStore s.advance (segmentEntry s delta) s.cur.a

/-- `SACB` (R229). -/
def execSacb (delta : BitVec 3) (s : State) : Host.Outcome State Fault Refusal :=
  finish do
    requirePrivilege s (.sacb delta)
    physStore s.advance (coreMapEntry s delta) s.cur.a

/-- `SZSB` (R233). -/
def execSzsb (delta : BitVec 3) (s : State) : Host.Outcome State Fault Refusal :=
  finish do
    requirePrivilege s (.szsb delta)
    physStore s.advance (segmentEntry s delta) 0

/-- `SZCB` (R234). -/
def execSzcb (delta : BitVec 3) (s : State) : Host.Outcome State Fault Refusal :=
  finish do
    requirePrivilege s (.szcb delta)
    physStore s.advance (coreMapEntry s delta) 0

end Sys2Proof.Machine
end

