-- ==== Sys2Proof/Machine/Skip.lean ====
section
/-! DEFINITION. The skip instruction. Spec: 49_sequencing_shift_skip_stack.md R403 to R407. -/

namespace Sys2Proof.Machine

/-- `SKP` writes C, O, Q only under SKP_WRITES_STS (R406). -/
def skipFlags (s : State) (f : Comparand) (r : Regs) : Regs :=
  if s.params.skpWritesSts then (r.setFlag .c f.c).setOverflow f.o else r

/-- `SKP` (R405). -/
def execSkp (cond : SkipCond) (sr dr : RegField) (s : State) : Host.Outcome State Fault Refusal :=
  let f := compareWords (s.cur.operand dr) (s.cur.operand sr)
  .next (s.setCur (skipFlags s f (s.cur.skipIf (skipHolds cond f))))

end Sys2Proof.Machine
end

