-- ==== Sys2Proof/Machine/Stack.lean ====
section
/-! DEFINITION. Stack operations. Spec: 49_sequencing_shift_skip_stack.md R410 to R415. All reads come before the writes, every
address is translated before the first write (R85). -/

namespace Sys2Proof.Machine

/-- `StackOverflow`, the overflow test of `ENTR` and `INIT`, on the unwrapped 17-bit STP (R412, D50): the default test, or another
one (log 22). -/
def stackOverflow (p : Params) (stp : Nat) (smax : Word) : Bool :=
  match p.stackTest with
  | .exceedsSmax => decide (smax.toNat < stp)
  | .other => Config.stackOverflow stp smax

/-- `ENTR` (R412): demand at P + 1, error return P + 2, normal continuation P + 3. -/
def execEntr (s : State) : Host.Outcome State Fault Refusal :=
  finish do
    let demand ← memRead s (s.cur.p + 1)
    let oldStp ← memRead s (frameAddr s.cur.b 0o176)
    let smax ← memRead s (frameAddr s.cur.b 0o175)
    let b1 := oldStp + 0o200
    let stp := b1.toNat + demand.toNat
    let paPrevb ← locate s (frameAddr b1 0o177) .write
    let paSmax ← locate s (frameAddr b1 0o175) .write
    let paLink ← locate s (frameAddr b1 0o200) .write
    let paStp ← locate s (frameAddr b1 0o176) .write
    let s1 := (((s.physWrite paPrevb s.cur.b).physWrite paSmax smax).physWrite paLink (s.cur.l + 1)).physWrite
      paStp (BitVec.ofNat 16 stp)
    return s1.setCur { s.cur with b := b1, p := s.cur.p + (if stackOverflow s.params stp smax then 2 else 3) }

/-- The body of `INIT` under INIT_LAYOUT (R413, log 22). -/
def initStack (s : State) : Except Fault State := do
  let y := s.params.initLayout
  let start ← memRead s (s.cur.p + y.start)
  let size ← memRead s (s.cur.p + y.size)
  let flag ← memRead s (s.cur.p + y.flag)
  let demand ← memRead s (s.cur.p + y.demand)
  let b1 := start + 0o200
  let smax := start + size
  let stp := b1.toNat + demand.toNat
  let paLink ← locate s (frameAddr b1 0o200) .write
  let paPrevb ← locate s (frameAddr b1 0o177) .write
  let paSmax ← locate s (frameAddr b1 0o175) .write
  let paStp ← locate s (frameAddr b1 0o176) .write
  let s1 := (((s.physWrite paLink (s.cur.l + 1)).physWrite paPrevb s.cur.b).physWrite paSmax smax).physWrite
    paStp (BitVec.ofNat 16 stp)
  return s1.setCur { s.cur with
    b := b1
    p := s.cur.p + (if stackOverflow s.params stp smax || Config.initFlagError flag then y.errorReturn else y.normal) }

/-- `INIT` (R413); refused when INIT_MODELLED is false (R465). -/
def execInit (s : State) : Host.Outcome State Fault Refusal :=
  if s.params.initModelled then finish (initStack s) else .refused (.unmodelledInstruction "INIT")

/-- `LEAVE` (R414): both reads use the old B. -/
def execLeave (s : State) : Host.Outcome State Fault Refusal :=
  finish do
    let link ← memRead s (frameAddr s.cur.b 0o200)
    let prevb ← memRead s (frameAddr s.cur.b 0o177)
    return s.setCur { s.cur with p := link, b := prevb }

/-- `ELEAV` (R415): the error code goes into the caller's frame. -/
def execEleav (s : State) : Host.Outcome State Fault Refusal :=
  finish do
    let oldLink ← memRead s (frameAddr s.cur.b 0o200)
    let prevb ← memRead s (frameAddr s.cur.b 0o177)
    let paLink ← locate s (frameAddr s.cur.b 0o200) .write
    let paCode ← locate s (frameAddr prevb 0o173) .write
    return ((s.physWrite paLink (oldLink - 1)).physWrite paCode s.cur.a).setCur
      { s.cur with p := oldLink - 1, b := prevb }

end Sys2Proof.Machine
end

