-- ==== Sys2Proof/Machine/SystemInfo.lean ====
section
/-! DEFINITION. System information, the customer instruction, the control store and the word-block move. Spec:
49_sequencing_shift_skip_stack.md R430 to R432; 47_memmgmt_transfer.md R330. -/

namespace Sys2Proof.Machine

/-- `VERSN`: unassigned on the ND-100 (R430, R462); D bits 15-8 are drawn. -/
def execVersn (s : State) : Host.Outcome State Fault Refusal :=
  match s.params.cpuModel with
  | .nd100 => .fault (.illegalInstruction (encode s.params.opcodes .versn))
  | .nd110 =>
    .next ((s.drawn 1).setCur { s.cur.step with
      a := Config.versionA
      t := Config.versionT
      d := joinBytes (leftByte s.freeWord) (Config.installation (s.cur.a.extractLsb' 8 4)) })

/-- `GECO`: nothing of its operands or effect is given (R431, R465). -/
def execGeco (_s : State) : Host.Outcome State Fault Refusal :=
  .refused (.unmodelledInstruction "GECO")

/-- `LWCS`: a no-operation on the ND-110; on the ND-100 refused (R330, R465). -/
def execLwcs (s : State) : Host.Outcome State Fault Refusal :=
  match requirePrivilege s .lwcs with
  | .error f => .fault f
  | .ok _ =>
    match s.params.cpuModel with
    | .nd110 => .next s.advance
    | .nd100 => .refused (.unmodelledInstruction "LWCS")

/-! ## Word block move (R432) -/

/-- The source or destination of a word-block move. -/
inductive BlockEnd where
  /-- normal page table -/
  | pt
  /-- alternative page table -/
  | apt
  /-- physical memory -/
  | physical
deriving DecidableEq, Repr

/-- The source of a transfer type. -/
def moveSource (ty : BitVec 6) : BlockEnd :=
  if ty < 0o3#6 then .pt else if ty < 0o6#6 then .apt else .physical

/-- The destination of a transfer type. -/
def moveDest (ty : BitVec 6) : BlockEnd :=
  match ty.toNat % 3 with
  | 0 => .pt
  | 1 => .apt
  | _ => .physical

/-- The privileged transfer types: those with a physical end. -/
def movePrivileged (ty : BitVec 6) : Bool := moveSource ty == .physical || moveDest ty == .physical

/-- Where word k of one end is: a physical address carries into the bank, a logical address wraps (R432). The alternative
page table is consulted only with PONI = 1 and PTM = 1. A physical end that advances past 2^24 - 1 goes on at physical word 0
(DESIGN CHOICE: R62 and R432 do not say what follows the last address; log 33). -/
def locateEnd (s : State) (e : BlockEnd) (hi lo : Word) (k : Nat) (kind : Access) : Except Fault PhysAddr :=
  match e with
  | .physical => installed s (physAddr hi lo + BitVec.ofNat 24 k)
  | .pt => locate s (lo + BitVec.ofNat 16 k) kind
  | .apt =>
    if s.poni && s.cur.flag .ptm then
      paged s (lo + BitVec.ofNat 16 k) kind (translateAlt s (lo + BitVec.ofNat 16 k) kind)
    else locate s (lo + BitVec.ofNat 16 k) kind

/-- Word k moved, read immediately before it is written (R432). -/
def moveWord (s : State) (src dst : BlockEnd) (k : Nat) (mem : Memory) : Except Fault Memory := do
  let from' ← locateEnd s src s.cur.a s.cur.d k .read
  let to' ← locateEnd s dst s.cur.x s.cur.t k .write
  return mem.writeWord to' (mem.readWord from')

/-- The first register of an end after the move: the bank, incremented when the second overflows (R432). -/
def movedBank (e : BlockEnd) (hi lo : Word) (n : Nat) : Word :=
  if e = .physical ∧ 2 ^ 16 ≤ lo.toNat + n then hi + 1 else hi

/-- The second register of an end after the move. -/
def movedAddr (lo : Word) (n : Nat) : Word := lo + BitVec.ofNat 16 n

/-- The block moved, at most 2048 words; a greater L moves nothing and changes nothing (R432). -/
def moveBlock (ty : BitVec 6) (s : State) : Except Fault State :=
  let n := s.cur.l.toNat
  if 0o4000 < n then .ok s.advance
  else do
    let mem ← walk (moveWord s (moveSource ty) (moveDest ty)) n 0 s.mem
    return { s.setCur { s.cur.step with
      a := movedBank (moveSource ty) s.cur.a s.cur.d n
      d := movedAddr s.cur.d n
      x := movedBank (moveDest ty) s.cur.x s.cur.t n
      t := movedAddr s.cur.t n
      l := 0 } with mem := mem }

/-- `MOVEW`: an unassigned type is an illegal word, found before the privilege check (R432, R462, R467). -/
def execMovew (ty : BitVec 6) (s : State) : Host.Outcome State Fault Refusal :=
  finish do
    if !movewOk ty then throw (.illegalInstruction (encode s.params.opcodes (.movew ty)))
    if movePrivileged ty then requirePrivilege s (.movew ty)
    moveBlock ty s

end Sys2Proof.Machine
end

