-- ==== Sys2Proof/Machine/Transfer.lean ====
section
/-! DEFINITION. Memory transfer: double word, load, store. Spec: 47_memmgmt_transfer.md R300 to R310. EA is formed first, every
address is translated before the first write (R85, log 19). -/

namespace Sys2Proof.Machine

/-- `LDD` (R301). -/
def execLdd (m : MemOperand) (s : State) : Host.Outcome State Fault Refusal :=
  finish do
    let ea ← effAddr s m
    let hi ← memRead s ea
    let lo ← memRead s (ea + 1)
    return s.setCur { s.cur.step with a := hi, d := lo }

/-- `STD` (R302). -/
def execStd (m : MemOperand) (s : State) : Host.Outcome State Fault Refusal :=
  finish do
    let ea ← effAddr s m
    let pa0 ← locate s ea .write
    let pa1 ← locate s (ea + 1) .write
    return (((s.physWrite pa0 s.cur.a).physWrite pa1 s.cur.d)).advance

/-- `LDA` (R303). -/
def execLda (m : MemOperand) (s : State) : Host.Outcome State Fault Refusal :=
  finish do
    let v ← memOperand s m
    return s.setCur { s.cur.step with a := v }

/-- `LDT` (R304). -/
def execLdt (m : MemOperand) (s : State) : Host.Outcome State Fault Refusal :=
  finish do
    let v ← memOperand s m
    return s.setCur { s.cur.step with t := v }

/-- `LDX` (R305). -/
def execLdx (m : MemOperand) (s : State) : Host.Outcome State Fault Refusal :=
  finish do
    let v ← memOperand s m
    return s.setCur { s.cur.step with x := v }

/-- `MIN`: increment, skip if the new word is zero (R306). -/
def execMin (m : MemOperand) (s : State) : Host.Outcome State Fault Refusal :=
  finish do
    let ea ← effAddr s m
    let v ← memRead s ea
    let pa ← locate s ea .write
    return (s.physWrite pa (v + 1)).setCur (s.cur.skipIf (v + 1 == 0))

/-- `STA` (R307). -/
def execSta (m : MemOperand) (s : State) : Host.Outcome State Fault Refusal :=
  finish do
    let ea ← effAddr s m
    storeWord s ea s.cur.a

/-- `STT` (R308). -/
def execStt (m : MemOperand) (s : State) : Host.Outcome State Fault Refusal :=
  finish do
    let ea ← effAddr s m
    storeWord s ea s.cur.t

/-- `STX` (R309). -/
def execStx (m : MemOperand) (s : State) : Host.Outcome State Fault Refusal :=
  finish do
    let ea ← effAddr s m
    storeWord s ea s.cur.x

/-- `STZ` (R310). -/
def execStz (m : MemOperand) (s : State) : Host.Outcome State Fault Refusal :=
  finish do
    let ea ← effAddr s m
    storeWord s ea 0

end Sys2Proof.Machine
end

