-- ==== Sys2Proof/Machine/Execute.lean ====
section
/-! DEFINITION. Execute: the instruction in a register. Spec: 46_exec_float_io_level.md R260. -/

namespace Sys2Proof.Machine

/-- A nested `EXR`: Z is set and nothing else happens (R260). -/
def nestedExr (s : State) : State := s.setCur (s.cur.step.setFlag .z true)

/-- An instruction executed from a register, by its own rule; P is the address of the `EXR` (R72, R260). -/
def executed (i : Instr) (s : State) : Host.Outcome State Fault Refusal :=
  match i with
  | .stz m => execStz m s
  | .sta m => execSta m s
  | .stt m => execStt m s
  | .stx m => execStx m s
  | .std m => execStd m s
  | .ldd m => execLdd m s
  | .stf m => execStf m s
  | .ldf m => execLdf m s
  | .min m => execMin m s
  | .lda m => execLda m s
  | .ldt m => execLdt m s
  | .ldx m => execLdx m s
  | .add m => execAdd m s
  | .sub m => execSub m s
  | .and m => execAnd m s
  | .ora m => execOra m s
  | .fad m => execFad m s
  | .fsb m => execFsb m s
  | .fmu m => execFmu m s
  | .fdv m => execFdv m s
  | .mpy m => execMpy m s
  | .jmp m => execJmp m s
  | .jpl m => execJpl m s
  | .jap disp => execJap disp s
  | .jan disp => execJan disp s
  | .jaz disp => execJaz disp s
  | .jaf disp => execJaf disp s
  | .jpc disp => execJpc disp s
  | .jnc disp => execJnc disp s
  | .jxz disp => execJxz disp s
  | .jxn disp => execJxn disp s
  | .skp cond sr dr => execSkp cond sr dr s
  | .addd => execAddd s
  | .subd => execSubd s
  | .comd => execComd s
  | .tset => execTset s
  | .pack => execPack s
  | .upack => execUpack s
  | .shde => execShde s
  | .rdus => execRdus s
  | .bfill => execBfill s
  | .movb => execMovb s
  | .movbf => execMovbf s
  | .versn => execVersn s
  | .init => execInit s
  | .entr => execEntr s
  | .leave => execLeave s
  | .eleav => execEleav s
  | .setpt => execSetpt s
  | .clept => execClept s
  | .clnreent => execClnreent s
  | .chreentpages => execChreentpages s
  | .clepu => execClepu s
  | .wglob => execWglob s
  | .rglob => execRglob s
  | .inspl => execInspl s
  | .rempl => execRempl s
  | .cnrek => execCnrek s
  | .clpt => execClpt s
  | .enpt => execEnpt s
  | .rept => execRept s
  | .lbit => execLbit s
  | .sbit => execSbit s
  | .lbitp => execLbitp s
  | .sbitp => execSbitp s
  | .lbytp => execLbytp s
  | .sbytp => execSbytp s
  | .tsetp => execTsetp s
  | .rdusp => execRdusp s
  | .geco => execGeco s
  | .exr _ _ => .next (nestedExr s)
  | .lasb delta => execLasb delta s
  | .sasb delta => execSasb delta s
  | .lacb delta => execLacb delta s
  | .sacb delta => execSacb delta s
  | .lxsb delta => execLxsb delta s
  | .lxcb delta => execLxcb delta s
  | .szsb delta => execSzsb delta s
  | .szcb delta => execSzcb delta s
  | .rmpy sr dr => execRmpy sr dr s
  | .rdiv sr dr => execRdiv sr dr s
  | .lbyt => execLbyt s
  | .sbyt => execSbyt s
  | .movew ty => execMovew ty s
  | .mix3 => execMix3 s
  | .ldatx delta => execLdatx delta s
  | .ldxtx delta => execLdxtx delta s
  | .lddtx delta => execLddtx delta s
  | .ldbtx delta => execLdbtx delta s
  | .statx delta => execStatx delta s
  | .stztx delta => execStztx delta s
  | .stdtx delta => execStdtx delta s
  | .lwcs => execLwcs s
  | .ident code => execIdent code s
  | .swap cm1 cld sr dr => execSwap cm1 cld sr dr s
  | .rand cm1 cld sr dr => execRand cm1 cld sr dr s
  | .rexo cm1 cld sr dr => execRexo cm1 cld sr dr s
  | .rora cm1 cld sr dr => execRora cm1 cld sr dr s
  | .radd adc ad1 cm1 cld sr dr => execRadd adc ad1 cm1 cld sr dr s
  | .copy adc ad1 cm1 sr dr => execCopy adc ad1 cm1 sr dr s
  | .rsub cld sr dr => execRsub cld sr dr s
  | .rinc dr => execRinc dr s
  | .rdcr dr => execRdcr dr s
  | .rclr dr => execRclr dr s
  | .exit => execExit s
  | .tra n => execTra n s
  | .trr n => execTrr n s
  | .mcl n => execMcl n s
  | .mst n => execMst n s
  | .opcom => execOpcom s
  | .iof => execIof s
  | .ion => execIon s
  | .pof => execPof s
  | .piof => execPiof s
  | .sex => execSex s
  | .rex => execRex s
  | .pon => execPon s
  | .pion => execPion s
  | .ioxt => execIoxt s
  | .exam => execExam s
  | .depo => execDepo s
  | .wait n => execWait n s
  | .nlz scale => execNlz scale s
  | .dnz scale => execDnz scale s
  | .srb level => execSrb level s
  | .lrb level => execLrb level s
  | .mon n => execMon n s
  | .irw level r => execIrw level r s
  | .irr level r => execIrr level r s
  | .sht ty count => execSht ty count s
  | .shd ty count => execShd ty count s
  | .sha ty count => execSha ty count s
  | .sad ty count => execSad ty count s
  | .iot addr => execIot addr s
  | .iox addr => execIox addr s
  | .sab arg => execSab arg s
  | .saa arg => execSaa arg s
  | .sat arg => execSat arg s
  | .sax arg => execSax arg s
  | .aab arg => execAab arg s
  | .aaa arg => execAaa arg s
  | .aat arg => execAat arg s
  | .aax arg => execAax arg s
  | .bsetZro bn dr => execBsetZro bn dr s
  | .bsetOne bn dr => execBsetOne bn dr s
  | .bsetBcm bn dr => execBsetBcm bn dr s
  | .bsetBac bn dr => execBsetBac bn dr s
  | .bskpZro bn dr => execBskpZro bn dr s
  | .bskpOne bn dr => execBskpOne bn dr s
  | .bskpBcm bn dr => execBskpBcm bn dr s
  | .bskpBac bn dr => execBskpBac bn dr s
  | .bstc bn dr => execBstc bn dr s
  | .bsta bn dr => execBsta bn dr s
  | .bldc bn dr => execBldc bn dr s
  | .blda bn dr => execBlda bn dr s
  | .banc bn dr => execBanc bn dr s
  | .band bn dr => execBand bn dr s
  | .borc bn dr => execBorc bn dr s
  | .bora bn dr => execBora bn dr s

/-- `EXR`: the register is read once; an unassigned word is illegal; a word that is itself an `EXR` sets Z (R260). The dr bits
are ignored. -/
def execExr (sr dr : RegField) (s : State) : Host.Outcome State Fault Refusal :=
  match requireOperand s (.exr sr dr) .exrRegister (exrOk sr) with
  | .error f => .fault f
  | .ok _ =>
    match decodeWord s.params.opcodes (s.cur.operand sr) with
    | .error _ => .fault (.illegalInstruction (s.cur.operand sr))
    | .ok i => executed i s

end Sys2Proof.Machine
end

