-- ==== Sys2Proof/Machine/Step.lean ====
section
/-! DEFINITION. One step of the machine (00_scope.md R14, 60_exceptions.md R467), and the placing of one instruction where the
next step fetches it. -/

namespace Sys2Proof.Machine

/-- One step: the host's gap and the level change, the fetch, the decoding, the instruction. A machine that was stopped answers
`halted` (R466, R488, log 16). -/
def step (s : State) : Host.Outcome State Fault Refusal :=
  match s.run with
  | .off reason => .fault (.halted reason)
  | .on =>
    match fetch (beginStep s) with
    | .error f => .fault f
    | .ok w =>
      match decodeWord s.params.opcodes w with
      | .error _ => .fault (.illegalInstruction w)
      | .ok i => exec i (beginStep s)

/-- `s` running, with the word `w` stored where the next step fetches; every instruction is one word (R90). Where the fetch
would fault there is no such place and nothing is stored. -/
def State.withFetchWord (s : State) (_nbits w : Nat) : State :=
  match locate (beginStep s) (beginStep s).cur.p .fetch with
  | .ok pa => { s.physWrite pa (BitVec.ofNat 16 w) with run := .on }
  | .error _ => { s with run := .on }

end Sys2Proof.Machine
end

