-- ==== Sys2Proof/Safety.lean ====
section
/-! DEFINITION. What counts as a safe run, and the terms the statements use: the invariant, frames, the privileged
instructions of R471, and arithmetic said over numbers instead of over the model's adder. -/

namespace Sys2Proof

/-- The privileged instructions (60_exceptions.md R471). -/
def Instr.privileged : Instr → Bool
  | .iox _ | .ioxt => true
  | .ident _ | .iof | .ion | .opcom | .pof | .wait _ => true
  | .piof | .pion | .pon | .rex | .sex => true
  | .tra _ | .trr _ | .mst _ | .mcl _ => true
  | .irr _ _ | .irw _ _ => true
  | .lrb _ | .srb _ => true
  | .depo | .exam => true
  | .rdus | .tset => true
  | .ldatx _ | .ldxtx _ | .lddtx _ | .ldbtx _ | .statx _ | .stztx _ | .stdtx _ => true
  | .lwcs => true
  | .wglob | .rglob | .lbit | .sbit | .lbitp | .sbitp | .lbytp | .sbytp | .rdusp | .tsetp => true
  | .setpt | .clept | .clepu | .chreentpages | .clnreent | .clpt | .cnrek | .enpt | .inspl | .rempl | .rept => true
  | .lasb _ | .sasb _ | .lacb _ | .sacb _ | .lxsb _ | .lxcb _ | .szsb _ | .szcb _ => true
  | .movew ty => ty == 2#6 || ty == 5#6 || ty == 6#6 || ty == 7#6 || ty == 8#6
  | _ => false

/-- Bits 10-0 of a MEM word as R91 adds them up: X 2000₈, I 1000₈, B 400₈, the displacement. -/
def MemOperand.value (m : MemOperand) : Nat :=
  (if m.x then 0o2000 else 0) + (if m.i then 0o1000 else 0) + (if m.b then 0o400 else 0) + m.disp.toNat

/-- The words without a row of fixed opcode (tags S and G of R108 to R110, by their values), and those with one that is no
instruction (R111, R112, R113, R462): `IOT`, `MOVEW` with a type above 10₈ and shifts with bit 6 among them. -/
def unassignedFixed (w : Nat) : Bool :=
  if w < 0o140000 then false
  else if w ≤ 0o143777 then
    w / 64 % 4 != 0 && !(
      (decide (0o140600 ≤ w) && decide (w ≤ 0o140677)) || (decide (0o141200 ≤ w) && decide (w ≤ 0o141277)) ||
      (decide (0o141600 ≤ w) && decide (w ≤ 0o141677)) || w == 0o142200 || w == 0o142600 ||
      (decide (0o143100 ≤ w) && decide (w ≤ 0o143110)) || w == 0o143200 ||
      (decide (0o143300 ≤ w) && decide (w ≤ 0o143377) && w % 8 != 7) || w == 0o143500 ||
      (decide (0o143600 ≤ w) && decide (w ≤ 0o143677)))
  else if w ≤ 0o147777 then false
  else if w ≤ 0o150377 then w / 16 % 4 != 0
  else if w ≤ 0o150777 then
    w == 0o150403 || w == 0o150411 || w == 0o150413 || w == 0o150414 || decide (0o150420 ≤ w)
  else if w ≤ 0o152377 then false
  else if w ≤ 0o152777 then w / 128 % 2 == 0 || w % 8 != 0
  else if w ≤ 0o153777 then false
  else if w ≤ 0o157777 then w / 64 % 2 == 1
  else decide (w ≤ 0o163777)

/-- The words that are no instruction under the opcode values `o` (R112): `unassignedFixed` and no word of an open opcode, that
of `VERSN` on the ND-100 aside. -/
def unassignedWord (o : Opcodes) (cpu : CpuModel) (w : Word) : Bool :=
  unassignedFixed w.toNat && o.table.all fun e => e.1 != w || (e.2 == .versn && cpu == .nd100)

namespace Machine

/-! ## The invariant -/

/-- The memory is in its canonical form and lists no byte of a word that is not installed (R62, R63). -/
def State.Inv (s : State) : Prop := s.mem.wf = true ∧ s.mem.within s.params.physWords = true

/-- Memory management off and bank 0 installed: then no logical access can fault (R463). -/
def BankZeroReady (s : State) : Prop := s.poni = false ∧ 2 ^ 16 ≤ s.params.physWords

/-- Memory management off and all 2^24 words installed: then no access can fault (R463). -/
def AllReady (s : State) : Prop := s.poni = false ∧ 2 ^ 24 ≤ s.params.physWords

/-- The logical word `a` with memory management off: the physical word `a` of bank 0 (R61). -/
def wordAt (s : State) (a : Word) : Word := s.mem.readWord (BitVec.ofNat 24 a.toNat)

/-- A physical address as R62 forms it from a bank register, of which the low 8 bits count, and an address. -/
def bankAddr (bank off : Word) : PhysAddr := BitVec.ofNat 24 (bank.toNat % 256 * 65536 + off.toNat)

/-! ## Completion -/

/-- `exec` answers a next state, and it is one that `post` describes. -/
def Completes (i : Instr) (s : State) (post : State → Prop) : Prop := ∃ t, exec i s = .next t ∧ post t

/-! ## Frames -/

/-- Everything but working registers and memory is unchanged (the model's own counter of drawn values aside). -/
structure SameControl (s t : State) : Prop where
  pil     : t.pil = s.pil
  pid     : t.pid = s.pid
  pie     : t.pie = s.pie
  ioni    : t.ioni = s.ioni
  poni    : t.poni = s.poni
  sexi    : t.sexi = s.sexi
  pcr     : t.pcr = s.pcr
  iie     : t.iie = s.iie
  stbnk   : t.stbnk = s.stbnk
  stsrt   : t.stsrt = s.stsrt
  cmbnk   : t.cmbnk = s.cmbnk
  run     : t.run = s.run
  ioTrace : t.ioTrace = s.ioTrace
  gaps    : t.gaps = s.gaps
  params  : t.params = s.params

/-- The registers of every level but the current one are unchanged. -/
def SameOtherLevels (s t : State) : Prop := ∀ n : Level, n ≠ s.pil → t.lv n = s.lv n

/-- Every byte of memory reads as before. -/
def SameMemory (s t : State) : Prop := ∀ k : Nat, t.mem.readByte k = s.mem.readByte k

/-- Every byte of memory outside the words `pas` reads as before. -/
def SameMemoryOutside (s t : State) (pas : List PhysAddr) : Prop :=
  ∀ k : Nat, (∀ pa ∈ pas, k ≠ 2 * pa.toNat ∧ k ≠ 2 * pa.toNat + 1) → t.mem.readByte k = s.mem.readByte k

/-- An instruction that writes registers only: the current level's registers become `r`, nothing else changes. -/
def SetsRegisters (s t : State) (r : Regs) : Prop :=
  t.cur = r ∧ SameOtherLevels s t ∧ SameControl s t ∧ SameMemory s t

/-- The word a list of stores leaves at `pa`: the last store to it, if there is one. -/
def lastStore (stores : List (PhysAddr × Word)) (pa : PhysAddr) : Option Word :=
  (stores.reverse.find? fun w => w.1 == pa).map Prod.snd

/-- The words a list of stores leaves in memory; every other byte reads as before. -/
def StoresInto (s t : State) (stores : List (PhysAddr × Word)) : Prop :=
  (∀ pa v, lastStore stores pa = some v → t.mem.readWord pa = v) ∧ SameMemoryOutside s t (stores.map Prod.fst)

/-- An instruction that stores words: the current level's registers become `r`, the stores are made, nothing else changes. -/
def SetsAndStores (s t : State) (r : Regs) (stores : List (PhysAddr × Word)) : Prop :=
  t.cur = r ∧ SameOtherLevels s t ∧ SameControl s t ∧ StoresInto s t stores

/-- The register `dr` becomes `v` and STS becomes `sts`; a write of P is a jump, any other destination leaves P at the next
instruction, code 0 writes no register; nothing else changes (R26, R342, R343). -/
def WritesRegister (s t : State) (dr : RegField) (v : Word) (sts : Byte) : Prop :=
  t.cur.sts = sts ∧ t.cur.p = (if dr = .p then v else s.cur.p + 1) ∧
    (∀ f : RegField, f ≠ .code0 → f ≠ .p → t.cur.operand f = if f = dr then v else s.cur.operand f) ∧
    SameOtherLevels s t ∧ SameControl s t ∧ SameMemory s t

/-- A bit instruction: the addressed bit becomes `bit` if it is written, K becomes `k` if it is written (K last), P passes the
instruction unless the bit is one of P (R152); nothing else changes. -/
def BitEffect (s t : State) (bn : BitVec 4) (dr : RegField) (bit k : Option Bool) : Prop :=
  (∀ j, j < 8 → t.cur.sts.getLsbD j =
    if j = 2 ∧ k.isSome then k.getD false
    else if dr = .code0 ∧ j = bn.toNat ∧ bit.isSome then bit.getD false
    else s.cur.sts.getLsbD j) ∧
  (∀ j, j < 16 → t.cur.p.getLsbD j =
    if dr = .p ∧ bit.isSome then (if j = bn.toNat then bit.getD false else s.cur.p.getLsbD j)
    else (s.cur.p + 1).getLsbD j) ∧
  (∀ f : RegField, f ≠ .code0 → f ≠ .p → ∀ j, j < 16 → (t.cur.operand f).getLsbD j =
    if f = dr ∧ j = bn.toNat ∧ bit.isSome then bit.getD false else (s.cur.operand f).getLsbD j) ∧
  SameOtherLevels s t ∧ SameControl s t ∧ SameMemory s t

/-- The bit a bit instruction addresses (R151): of STS for register code 0, else of the register. -/
def addressedBit (s : State) (bn : BitVec 4) (dr : RegField) : Bool :=
  if dr = .code0 then s.cur.sts.getLsbD bn.toNat else (s.cur.operand dr).getLsbD bn.toNat

/-- STS with K replaced (R27). -/
def withK (sts : Byte) (k : Bool) : Byte := sts.extractLsb' 3 5 ++ (BitVec.ofBool k ++ sts.extractLsb' 0 2)

/-- STS with Z replaced (R27). -/
def withZ (sts : Byte) (z : Bool) : Byte := sts.extractLsb' 4 4 ++ (BitVec.ofBool z ++ sts.extractLsb' 0 3)

/-- STS with M replaced (R27). -/
def withM (sts : Byte) (m : Bool) : Byte := BitVec.ofBool m ++ sts.extractLsb' 0 7

/-- A word with the bit `pos` replaced (R205, R207). -/
def withBit (w : Word) (pos : Nat) (v : Bool) : Word := if v then w ||| (1#16 <<< pos) else w &&& ~~~(1#16 <<< pos)

/-- The bit of a bit-array word for the index in A (R203, `BITARRAY_MSB_FIRST`). -/
def arrayBitPos (s : State) : Nat :=
  if s.params.bitArrayMsbFirst then 15 - s.cur.a.toNat % 16 else s.cur.a.toNat % 16

/-- A word with one byte replaced: bit 0 of the index 1 the right byte, 0 the left (R190, R192). -/
def withByte (w : Word) (index : Word) (v : Byte) : Word :=
  if index.getLsbD 0 then w.extractLsb' 8 8 ++ v else v ++ w.extractLsb' 0 8

/-- The byte of a word that a byte index names, as a word with the left byte clear (R191). -/
def byteOf (w : Word) (index : Word) : Word :=
  (0#8 : BitVec 8) ++ (if index.getLsbD 0 then w.extractLsb' 0 8 else w.extractLsb' 8 8)

/-! ## Arithmetic over numbers -/

/-- A signed result that a word cannot hold. -/
def outOfRange (x : Int) : Bool := decide (x < -32768 ∨ 32767 < x)

/-- STS after an addition (R29, R30): C the carry, Q the overflow, O set by it and else kept, the other five bits kept. -/
def addStatus (sts : Byte) (carry ovf : Bool) : Byte :=
  BitVec.ofBool (sts.getLsbD 7) ++ (BitVec.ofBool carry ++ (BitVec.ofBool (sts.getLsbD 5 || ovf) ++
    (BitVec.ofBool ovf ++ sts.extractLsb' 0 4)))

/-- The relation each condition of `SKP` decides between d and s (R404). -/
def skipRelation (cond : SkipCond) (d s : Word) : Prop :=
  match cond with
  | .eql => d = s
  | .geq => (d - s).msb = false
  | .gre => s.toInt ≤ d.toInt
  | .mgre => s.toNat ≤ d.toNat
  | .ueq => d ≠ s
  | .lss => (d - s).msb = true
  | .lst => d.toInt < s.toInt
  | .mlst => d.toNat < s.toNat

/-- A shift left by n > 0 places in closed form (R395): v, M before and v', M' after. -/
def LeftShifted {w : Nat} (ty : ShiftType) (n : Nat) (v : BitVec w) (m : Bool) (v' : BitVec w) (m' : Bool) : Prop :=
  match ty with
  | .rot => v' = v.rotateLeft n ∧ m' = v'.getLsbD 0
  | .lin => (BitVec.ofBool m' ++ v' : BitVec (1 + w)) = (BitVec.ofBool m ++ v : BitVec (1 + w)).rotateLeft n
  | .arith => v' = v <<< n ∧ m' = (v <<< (n - 1)).getLsbD (w - 1)
  | .zin => v' = v <<< n ∧ m' = (v <<< (n - 1)).getLsbD (w - 1)

/-- A shift right by n > 0 places in closed form (R395). -/
def RightShifted {w : Nat} (ty : ShiftType) (n : Nat) (v : BitVec w) (m : Bool) (v' : BitVec w) (m' : Bool) : Prop :=
  match ty with
  | .rot => v' = v.rotateRight n ∧ m' = v'.getLsbD (w - 1)
  | .lin => (BitVec.ofBool m' ++ v' : BitVec (1 + w)) = (BitVec.ofBool m ++ v : BitVec (1 + w)).rotateRight n
  | .arith => v' = v.sshiftRight n ∧ m' = (v.sshiftRight (n - 1)).getLsbD 0
  | .zin => v' = v >>> n ∧ m' = (v >>> (n - 1)).getLsbD 0

/-- The shift by a 6-bit signed count (R106, R395): 0 changes nothing, positive is left, negative is right. -/
def ShiftedBy {w : Nat} (ty : ShiftType) (count : BitVec 6) (v : BitVec w) (m : Bool) (v' : BitVec w) (m' : Bool) : Prop :=
  (count.toInt = 0 → v' = v ∧ m' = m) ∧
  (0 < count.toInt → LeftShifted ty count.toInt.toNat v m v' m') ∧
  (count.toInt < 0 → RightShifted ty (-count.toInt).toNat v m v' m')

/-- The instruction whose rule runs when `i` is executed: `i` itself, or the instruction in the register an `EXR` names. -/
def Runs (s : State) (i j : Instr) : Prop :=
  j = i ∨ ∃ sr dr, i = .exr sr dr ∧ decodeWord s.params.opcodes (s.cur.operand sr) = .ok j

/-! ## What single instructions do, where several statements say it -/

/-- STS as `TRA` and `SRB` read it (R31): IONI, PONI, SEXI, 1, PIL, and the flags of the current level. -/
def statusRead (s : State) : Word :=
  (BitVec.ofBool s.ioni ++ (BitVec.ofBool s.poni ++ (BitVec.ofBool s.sexi ++ (1#1 ++ s.pil))) : Byte) ++ s.cur.sts

/-- PID after an instruction (R443). -/
def pidAfter (s : State) : Instr → Word
  | .trr n => if n = 6 then s.cur.a else s.pid
  | .mst n => if n = 6 then s.pid ||| s.cur.a else s.pid
  | .mcl n => if n = 6 then s.pid &&& ~~~s.cur.a else s.pid
  | .mon _ => s.pid ||| 0o40000#16
  | .wait _ => if s.ioni = true ∧ s.pil ≠ 0 then s.pid &&& ~~~(1#16 <<< s.pil.toNat) else s.pid
  | _ => s.pid

/-- PIE after an instruction (R443). -/
def pieAfter (s : State) : Instr → Word
  | .trr n => if n = 7 then s.cur.a else s.pie
  | .mst n => if n = 7 then s.pie ||| s.cur.a else s.pie
  | .mcl n => if n = 7 then s.pie &&& ~~~s.cur.a else s.pie
  | _ => s.pie

/-- `i` is a register addition with these fields (R344): dr + sr with ADC, AD1, CM1, CLD, C O Q of the adder; nothing but the
advance of P where ADC and AD1 meet. -/
def AddsInto (i : Instr) (s : State) (adc ad1 cm1 cld : Bool) (sr dr : RegField) : Prop :=
  let d : Word := if cld then 0 else s.cur.operand dr
  let v : Word := if cm1 then ~~~s.cur.operand sr else s.cur.operand sr
  let c : Bool := if ad1 then true else adc && s.cur.sts.getLsbD 6
  ((adc && ad1) = true → Completes i s fun t => SetsRegisters s t { s.cur with p := s.cur.p + 1 }) ∧
  ((adc && ad1) = false → Completes i s fun t =>
    WritesRegister s t dr (d + v + BitVec.ofNat 16 c.toNat)
      (addStatus s.cur.sts (decide (65536 ≤ d.toNat + v.toNat + c.toNat))
        (outOfRange (d.toInt + v.toInt + c.toNat))))

/-- `i` combines the floating accumulator with the operand at `m` by `op` (R420, R423 to R426), in the format FLOAT48
selects; Z is set on an error, else kept. -/
def FloatingStep (i : Instr) (op : Bool → Bool → Acc → Acc → Acc × Bool) (s : State) (m : MemOperand) : Prop :=
  (∀ ea t0 a0 d0, s.params.float48 = true → effAddr s m = .ok ea → memRead s ea = .ok t0 →
    memRead s (ea + 1) = .ok a0 → memRead s (ea + 2) = .ok d0 → Completes i s fun t =>
      let r := op true (s.cur.sts.getLsbD 1) { t := s.cur.t, a := s.cur.a, d := s.cur.d } { t := t0, a := a0, d := d0 }
      SetsRegisters s t { s.cur with
        p := s.cur.p + 1, t := r.1.t, a := r.1.a, d := r.1.d
        sts := if r.2 then withZ s.cur.sts true else s.cur.sts }) ∧
  (∀ ea a0 d0, s.params.float48 = false → effAddr s m = .ok ea → memRead s ea = .ok a0 →
    memRead s (ea + 1) = .ok d0 → Completes i s fun t =>
      let r := op false (s.cur.sts.getLsbD 1) { t := 0, a := s.cur.a, d := s.cur.d } { t := 0, a := a0, d := d0 }
      SetsRegisters s t { s.cur with
        p := s.cur.p + 1, a := r.1.a, d := r.1.d
        sts := if r.2 then withZ s.cur.sts true else s.cur.sts })

/-- `FDiv` with the error that a zero divisor reports (R426). -/
def divideOp (float48 tg : Bool) (x y : Acc) : Acc × Bool :=
  ((Config.fDiv float48 tg x y).1, (Config.fDiv float48 tg x y).2 || Config.fIsZero float48 y)

/-- Word k of one end of a block move (R432): a physical address carries into the bank, a logical address wraps. -/
def moveAddr (physical : Bool) (hi lo : Word) (k : Nat) : PhysAddr :=
  if physical then BitVec.ofNat 24 (hi.toNat % 256 * 65536 + lo.toNat + k) else BitVec.ofNat 24 ((lo.toNat + k) % 65536)

/-- Where word k of the source or destination of a block move is (R432, the spec's decision D53), for the end 0 (normal page table),
1 (alternative page table) or 2 (physical memory) that the transfer type gives: the alternative page table counts only with
memory management on and PTM = 1; that a physical address wraps at 2^24 is the model's (log 33). -/
def endWord (s : State) (e : Nat) (hi lo : Word) (k : Nat) (kind : Access) : Except Fault PhysAddr :=
  let addr := lo + BitVec.ofNat 16 k
  let pa := moveAddr true hi lo k
  if e = 2 then (if pa.toNat < s.params.physWords then .ok pa else .error (.translationFault pa .nonexistent))
  else if e = 1 ∧ s.poni = true ∧ s.cur.sts.getLsbD 0 = true then paged s addr kind (translateAlt s addr kind)
  else locate s addr kind

/-- The sixteen bit operations on one bit (R150). -/
def bitOperations (bn : BitVec 4) (dr : RegField) : List Instr :=
  [.bsetZro bn dr, .bsetOne bn dr, .bsetBcm bn dr, .bsetBac bn dr, .bskpZro bn dr, .bskpOne bn dr, .bskpBcm bn dr,
    .bskpBac bn dr, .bstc bn dr, .bsta bn dr, .bldc bn dr, .blda bn dr, .banc bn dr, .band bn dr, .borc bn dr, .bora bn dr]

/-- The nine instructions whose algorithm is not in the source (R222). -/
def uninterpretedSintran : List Instr :=
  [.clepu, .chreentpages, .clnreent, .clpt, .cnrek, .enpt, .inspl, .rempl, .rept]

/-- How many words a decimal operand's field covers by its second descriptor word (R240, R241, R243, R251; log 12): 4 bits a digit
and for the sign, or a byte a digit and one more in ASCII; from the right byte on where bit 15 is set; at most eight; none of
an empty field. -/
def operandWords (ascii : Bool) (d2 : Word) : Nat :=
  let digits := d2.toNat % 32
  let bytes := if ascii then digits + 1 else (digits + 2) / 2
  if digits = 0 then 0 else Nat.min 8 ((d2.toNat / 32768 + bytes + 1) / 2)

/-- The logical addresses of a decimal operand's field. -/
def operandField (ascii : Bool) (d1 d2 : Word) : List Word :=
  (List.range (operandWords ascii d2)).map fun k => d1 + BitVec.ofNat 16 k

/-- The logical words a decimal instruction may write: its two operand fields, of which `PACK` has the first in ASCII and `UPACK`
the second (R248, R249). -/
def decimalFields (i : Instr) (s : State) : List Word :=
  operandField (i == .pack) s.cur.a s.cur.d ++ operandField (i == .upack) s.cur.x s.cur.t

/-- What R251 leaves to a decimal function: P by the skip, B and L kept, nothing outside the level, the control state kept. -/
def DecimalFrame (s t : State) : Prop :=
  (t.cur.p = s.cur.p + 1 ∨ t.cur.p = s.cur.p + 2) ∧ t.cur.b = s.cur.b ∧ t.cur.l = s.cur.l ∧ SameOtherLevels s t ∧
    SameControl s t

/-- What R222 leaves to a SINTRAN function: P at the next instruction, nothing outside the level, the control state kept but
for the three global pointers. -/
def SintranFrame (s t : State) : Prop :=
  t.cur.p = s.cur.p + 1 ∧ SameOtherLevels s t ∧
    SameControl { s with stbnk := t.stbnk, stsrt := t.stsrt, cmbnk := t.cmbnk } t

/-- A byte string's first byte as a linear index: twice the word address, plus 1 for the right byte (R193). -/
def firstByte (d1 d2 : Word) : Nat := 2 * d1.toNat + d2.msb.toNat

/-- The logical word of a linear byte index (R193); the index wraps at 2^17. -/
def byteWord (j : Nat) : Word := BitVec.ofNat 16 (j / 2)

/-- One byte stored at the linear index `j` by a read of the word `pr` and a write of the word `pw` (R192): the words of memory
before and after. -/
def StoresByte (before after : PhysAddr → Word) (pr pw : PhysAddr) (j : Nat) (v : Byte) : Prop :=
  ∀ pa, after pa = if pa = pw then withByte (before pr) (BitVec.ofNat 16 j) v else before pa

/-- The byte at the linear index `j` of the word at `pa`. -/
def byteIn (words : PhysAddr → Word) (pa : PhysAddr) (j : Nat) : Byte :=
  (byteOf (words pa) (BitVec.ofNat 16 j)).extractLsb' 0 8

/-- The store of a byte at the linear index `j` finds its word, for the read as `pr` and for the write as `pw`. -/
def StoreReaches (s : State) (j : Nat) (pr pw : PhysAddr) : Prop :=
  locate s (byteWord j) .read = .ok pr ∧ locate s (byteWord j) .write = .ok pw

/-- The store of a byte at the linear index `j` fails with the fault `f`, of its read or then of its write. -/
def StoreFails (s : State) (j : Nat) (f : Fault) : Prop :=
  locate s (byteWord j) .read = .error f ∨
    ((∃ pr, locate s (byteWord j) .read = .ok pr) ∧ locate s (byteWord j) .write = .error f)

/-- The memory of `t` holds the words `words`; what lies beyond the physical address space is as in `s`. -/
def HoldsWords (s t : State) (words : PhysAddr → Word) : Prop :=
  (∀ pa, t.mem.readWord pa = words pa) ∧ ∀ k : Nat, 2 ^ 25 ≤ k → t.mem.readByte k = s.mem.readByte k

/-- A descriptor's length (R193, `BYTE_LEN_BITS`). -/
def byteLength (s : State) (d2 : Word) : Nat := d2.toNat % 2 ^ (Nat.min s.params.byteLenBits 15)

/-- The second descriptor word after a byte instruction (R193): `lr` for the next byte, the new length, the other bits
kept. -/
def DescriptorAt (s : State) (old new : Word) (index len : Nat) : Prop :=
  ∀ j, j < 16 → new.getLsbD j =
    if j = 15 then decide (index % 2 = 1)
    else if j < Nat.min s.params.byteLenBits 15 then len.testBit j
    else old.getLsbD j

end Machine

end Sys2Proof
end

