-- ==== Sys2Proof/Certificates/Slice0/Obligations.lean ====
section
/-! DEFINITION. The statements for the provers. `Completes i s post` (Safety.lean) says that `exec i s` answers a next state
and that `post` holds of it; `SetsRegisters`, `SetsAndStores`, `WritesRegister`, `BitEffect` say the whole effect and the
frame. R<n> are rules of spec/. Where a rule is marked there as a decision or a derivation of the spec's author, the docstring
says so. -/

open Sys2Proof Sys2Proof.Machine

/-! ## Encoding -/

/-- Decoding the bytes of an instruction gives it back, with every operand at every value, and the bytes after it, for all opcode
values (R107) that keep the rows of the table apart, as the defaults and the other value of `OPC_SRB` (R110, D32) do; the six
assembler names of `RADD` words give the `RADD` they stand for (R111, R125; the model's log 15). -/
def Obligations.DecodeInvertsEncode : Prop :=
  Config.defaultOpcodes.wf = true ∧ { Config.defaultOpcodes with srb := 0o152402 }.wf = true ∧
  ∀ o : Opcodes, o.wf = true →
    ∀ (i : Instr) (rest : List Byte), decode o (encodeBytes o i ++ rest) = .ok (i.core, rest)

/-- A word that decodes is the encoding of the instruction it decodes to, which is no assembler alias, whatever the opcode values
are. -/
def Obligations.EncodeInvertsDecode : Prop :=
  ∀ (o : Opcodes) (w : Word) (i : Instr), decodeWord o w = .ok i → encode o i = w ∧ i.core = i

/-- The encodings by R108 to R110 of nine instructions that captions and examples of the source name (R107, R121, R123, R126).
The source itself prints only 152702, 152760 and, in the `EXR` captions, 014177 and 134020 as words; that `SAB` is 170000 is the
spec's general knowledge (G2). -/
def Obligations.SourceWordsDecode : Prop :=
  let decodes (w : Word) (i : Instr) : Prop := decodeWord Config.defaultOpcodes w = .ok i
  decodes 0o170352 (.sab 0xEA) ∧
  decodes 0o014177 (.stx { x := false, i := false, b := false, disp := 0o177 }) ∧
  decodes 0o134020 (.jpl { x := false, i := false, b := false, disp := 0o20 }) ∧
  decodes 0o174050 (.bsetZro 5 .code0) ∧
  decodes 0o174135 (.bsetZro 11 .a) ∧
  decodes 0o143322 (.lddtx 2) ∧
  decodes 0o152702 (.srb 8) ∧
  decodes 0o152760 (.lrb 14) ∧
  decodes 0o164306 (.iox 0o306)

/-- Every word that R110, R112, R113 and R462 call unassigned under the opcode values in force ends the step, and an `EXR` of it,
with IllegalInstruction and the word (the spec's decision D1). -/
def Obligations.UnassignedWordsFault : Prop :=
  (∀ (s : State) (w : Word), s.run = .on → fetch (beginStep s) = .ok w →
    unassignedWord s.params.opcodes s.params.cpuModel w = true → step s = .fault (.illegalInstruction w)) ∧
  (∀ (s : State) (sr dr : RegField), exrOk sr = true →
    unassignedWord s.params.opcodes s.params.cpuModel (s.cur.operand sr) = true →
    exec (.exr sr dr) s = .fault (.illegalInstruction (s.cur.operand sr)))

/-! ## The step, levels and interrupts -/

/-- The order of a step (R14, R467): gap and level change, fetch at P of the selected level, decode, the instruction. A machine
that was stopped answers `halted` (log 16). -/
def Obligations.StepRunsDecodedInstruction : Prop :=
  ∀ s : State,
    (∀ reason, s.run = .off reason → step s = .fault (.halted reason)) ∧
    (s.run = .on →
      (∀ f, fetch (beginStep s) = .error f → step s = .fault f) ∧
      (∀ w e, fetch (beginStep s) = .ok w → decodeWord s.params.opcodes w = .error e →
        step s = .fault (.illegalInstruction w)) ∧
      (∀ w i, fetch (beginStep s) = .ok w → decodeWord s.params.opcodes w = .ok i → step s = exec i (beginStep s)))

/-- The level-change rule R446 (the spec's decision D14): off, nothing; on, PIL becomes the highest level with its PID and PIE
bits set, 0 if there is none; nothing else changes (R447). -/
def Obligations.LevelChangeSelectsHighest : Prop :=
  ∀ s : State,
    (s.ioni = false → levelChange s = s) ∧
    (s.ioni = true →
      levelChange s = { s with pil := (levelChange s).pil } ∧
      (∀ n : Level, s.pid.getLsbD n.toNat = true → s.pie.getLsbD n.toNat = true → n ≤ (levelChange s).pil) ∧
      ((s.pid.getLsbD (levelChange s).pil.toNat = true ∧ s.pie.getLsbD (levelChange s).pil.toNat = true) ∨
        ((levelChange s).pil = 0 ∧ ∀ n : Level, ¬(s.pid.getLsbD n.toNat = true ∧ s.pie.getLsbD n.toNat = true))))

/-- The host's events between steps (R451, R492; the spec's decision D13): a request sets its PID bit, a DMA write stores a word,
the gap's events happen in their order and once. -/
def Obligations.HostEventsBetweenSteps : Prop :=
  ∀ s : State,
    (∀ n : Level, n ∈ [10#4, 11#4, 12#4, 13#4, 15#4] →
      applyHostEvent s (.interrupt n) = { s with pid := s.pid ||| (1#16 <<< n.toNat) }) ∧
    (∀ (pa : PhysAddr) (v : Word), s.mem.wf = true → pa.toNat < s.params.physWords →
      ∃ t, applyHostEvent s (.memWrite pa v) = t ∧ t = { s with mem := t.mem } ∧ StoresInto s t [(pa, v)]) ∧
    (∀ es rest, s.gaps = es :: rest →
      beginStep s = levelChange (es.foldl applyHostEvent { s with gaps := rest })) ∧
    (s.gaps = [] → beginStep s = levelChange s)

/-- No instruction writes PIL; a step leaves the level that the level-change rule selected at its start (R34, R446). The clauses on
`params` and `gaps` are the model's (logs 6 and 9): no instruction changes the parameters, and a step uses up one gap of the
host's. -/
def Obligations.StepKeepsSelectedLevel : Prop :=
  (∀ (i : Instr) (s t : State), exec i s = .next t → t.pil = s.pil ∧ t.params = s.params ∧ t.gaps = s.gaps) ∧
  (∀ s t : State, step s = .next t → t.pil = (levelChange (applyGap s)).pil ∧ t.params = s.params ∧ t.gaps = s.gaps.tail)

/-- Every way PID and PIE change (R443, a derivation of the spec's): the instructions of the table, executed as such or by an
`EXR`; no level change; no DMA; zero after power-up. -/
def Obligations.PidAndPieWriters : Prop :=
  (∀ (i : Instr) (s t : State), exec i s = .next t →
    ∃ j, Runs s i j ∧ t.pid = pidAfter s j ∧ t.pie = pieAfter s j) ∧
  (∀ s : State, (levelChange s).pid = s.pid ∧ (levelChange s).pie = s.pie) ∧
  (∀ (s : State) (e : HostEvent), (applyHostEvent s e).pie = s.pie ∧
    (∀ pa v, e = .memWrite pa v → (applyHostEvent s e).pid = s.pid)) ∧
  State.reset.pid = 0 ∧ State.reset.pie = 0

/-! ## Invariant, protection, reserved operands, reset -/

/-- The invariant holds after power-up. -/
def Obligations.InvHoldsAtReset : Prop := State.reset.Inv

/-- Every step keeps the memory in its canonical form, which is the model's own choice (log 1, DESIGN CHOICE: addresses rising, no
cell of value 0), and within the installed words (R63). -/
def Obligations.StepKeepsInv : Prop := ∀ s t : State, s.Inv → step s = .next t → t.Inv

/-- What an instruction that is not privileged (an `EXR`: whose register holds none either), and where `PrivOK` is false any
instruction, cannot do (R473, a derivation of the spec's): change the level, PIE, the mode bits, the internal registers, the
SINTRAN pointers, Run, the I/O trace; another level's registers, but for T of level 14 by `MON`; PID, but for setting bit 14 by
`MON`; memory, but at words that the page tables give for a write. -/
def Obligations.UserModeIsolation : Prop :=
  ∀ (i : Instr) (s t : State), (privOk s = false ∨ ∀ j, Runs s i j → j.privileged = false) → exec i s = .next t →
    SameControl { s with pid := t.pid } t ∧
    (∀ n : Level, n ≠ s.pil → n ≠ 14 → t.lv n = s.lv n) ∧
    (s.pil ≠ 14 → t.lv 14 = { s.lv 14 with t := (t.lv 14).t }) ∧
    (t.pid = s.pid ∨ t.pid = s.pid ||| 0o40000#16) ∧
    (∀ k : Nat, t.mem.readByte k ≠ s.mem.readByte k → ∃ addr pa,
      (locate s addr .write = .ok pa ∨ paged s addr .write (translateAlt s addr .write) = .ok pa) ∧ k / 2 = pa.toNat)

/-- The privileged instructions are those of R471 (collected by the spec's author): where `PrivOK` is false each faults, and
where it is true none does; no other instruction faults so, an `EXR` only if the instruction in its register does. With
memory management off `PrivOK` is true (R470). -/
def Obligations.PrivilegedInstructionsNeedPrivilege : Prop :=
  ∀ s : State,
    (∀ i : Instr, i.privileged = true → privOk s = true ∨
      exec i s = .fault (.privilegeViolation (encode s.params.opcodes i))) ∧
    (∀ (i : Instr) (w : Word), (privOk s = true ∨ ∀ j, Runs s i j → j.privileged = false) →
      exec i s ≠ .fault (.privilegeViolation w)) ∧
    (s.poni = false → privOk s = true)

/-- The reserved operand values of R114 and R464 (the spec's decision D24) fault, after the privilege check. -/
def Obligations.ReservedOperandsFault : Prop :=
  ∀ s : State,
    let word (i : Instr) : Word := encode s.params.opcodes i
    (∀ (bn : BitVec 4) (i : Instr), 8 ≤ bn.toNat → i ∈ bitOperations bn .code0 →
      exec i s = .fault (.reservedOperand (word i) .stsBitAbove7)) ∧
    (∀ sr dr : RegField, sr = .code0 ∨ sr = .p →
      exec (.exr sr dr) s = .fault (.reservedOperand (word (.exr sr dr)) .exrRegister)) ∧
    (privOk s = true →
      exec (.tra 0o16) s = .fault (.reservedOperand (word (.tra 0o16)) .traRegister) ∧
      (∀ n : BitVec 4, n = 0o4 ∨ n = 0o14 ∨ n = 0o16 →
        exec (.trr n) s = .fault (.reservedOperand (word (.trr n)) .trrRegister)) ∧
      (∀ n : BitVec 4, n ≠ 1 → n ≠ 6 → n ≠ 7 →
        exec (.mst n) s = .fault (.reservedOperand (word (.mst n)) .mstRegister) ∧
          exec (.mcl n) s = .fault (.reservedOperand (word (.mcl n)) .mclRegister)) ∧
      (∀ code : BitVec 6, code ≠ 0o04 → code ≠ 0o11 → code ≠ 0o22 → code ≠ 0o43 →
        exec (.ident code) s = .fault (.reservedOperand (word (.ident code)) .identLevel)))

/-- After power-up PID and PIE are zero and program level 0 is selected (R55). -/
def Obligations.PowerUpSelectsLevelZero : Prop :=
  State.reset.pid = 0 ∧ State.reset.pie = 0 ∧ State.reset.pil = 0 ∧ (beginStep State.reset).pil = 0

/-! ## Memory and addresses -/

/-- Memory as an array of words (R62, R63): a read after a write gives the word written, every other word is left alone, the
canonical form is kept and is unique. -/
def Obligations.MemoryLaws : Prop :=
  (∀ (m : Memory) (pa : PhysAddr) (v : Word), m.wf = true →
    (m.writeWord pa v).wf = true ∧ (m.writeWord pa v).readWord pa = v ∧
      (∀ pb : PhysAddr, pb ≠ pa → (m.writeWord pa v).readWord pb = m.readWord pb) ∧
      (∀ k : Nat, k ≠ 2 * pa.toNat → k ≠ 2 * pa.toNat + 1 → (m.writeWord pa v).readByte k = m.readByte k)) ∧
  (∀ m m' : Memory, m.wf = true → m'.wf = true → (∀ k : Nat, m.readByte k = m'.readByte k) → m = m')

/-- The eight addressing modes of R70 (mode bits X, I, B). -/
def Obligations.EffectiveAddressTable : Prop :=
  ∀ (s : State) (disp : Byte),
    let d : Word := disp.signExtend 16
    effAddr s { x := false, i := false, b := false, disp := disp } = .ok (s.cur.p + d) ∧
    effAddr s { x := false, i := false, b := true, disp := disp } = .ok (s.cur.b + d) ∧
    effAddr s { x := false, i := true, b := false, disp := disp } = memRead s (s.cur.p + d) ∧
    effAddr s { x := false, i := true, b := true, disp := disp } = memRead s (s.cur.b + d) ∧
    effAddr s { x := true, i := false, b := false, disp := disp } = .ok (s.cur.x + d) ∧
    effAddr s { x := true, i := false, b := true, disp := disp } = .ok (s.cur.b + d + s.cur.x) ∧
    effAddr s { x := true, i := true, b := false, disp := disp } = (memRead s (s.cur.p + d)).map (· + s.cur.x) ∧
    effAddr s { x := true, i := true, b := true, disp := disp } = (memRead s (s.cur.b + d)).map (· + s.cur.x)

/-- Where a logical access goes (R60 to R63, R463): bank 0 with memory management off; with it on, where `Translate` says, cut to
19 bits unless SEXI is set (log 10); an address that is not installed or not translated faults. Reads, writes and fetches
use it. -/
def Obligations.LogicalAccess : Prop :=
  ∀ (s : State) (addr : Word) (kind : Access),
    (s.poni = false → addr.toNat < s.params.physWords → locate s addr kind = .ok (BitVec.ofNat 24 addr.toNat)) ∧
    (s.poni = false → s.params.physWords ≤ addr.toNat →
      locate s addr kind = .error (.translationFault (BitVec.ofNat 24 addr.toNat) .nonexistent)) ∧
    (s.poni = true → locate s addr kind =
      match translate s addr kind with
      | none => .error (.translationFault (BitVec.ofNat 24 addr.toNat) kind)
      | some pa =>
        let q : PhysAddr := if s.sexi then pa else BitVec.ofNat 24 (pa.toNat % 2 ^ 19)
        if q.toNat < s.params.physWords then .ok q else .error (.translationFault q .nonexistent)) ∧
    (∀ w, memRead s addr = .ok w ↔ ∃ pa, locate s addr .read = .ok pa ∧ w = s.mem.readWord pa) ∧
    (∀ w, fetch s = .ok w ↔ ∃ pa, locate s s.cur.p .fetch = .ok pa ∧ w = s.mem.readWord pa)

/-! ## Argument, arithmetic and logic -/

/-- `SAA`, `SAB`, `SAT`, `SAX` load the sign-extended argument and write no flag (R131 to R134; that no flag is written is the
spec's decision D6). -/
def Obligations.ArgumentLoads : Prop :=
  ∀ (arg : Byte) (s : State),
    Completes (.saa arg) s (fun t => SetsRegisters s t { s.cur with p := s.cur.p + 1, a := arg.signExtend 16 }) ∧
    Completes (.sab arg) s (fun t => SetsRegisters s t { s.cur with p := s.cur.p + 1, b := arg.signExtend 16 }) ∧
    Completes (.sat arg) s (fun t => SetsRegisters s t { s.cur with p := s.cur.p + 1, t := arg.signExtend 16 }) ∧
    Completes (.sax arg) s (fun t => SetsRegisters s t { s.cur with p := s.cur.p + 1, x := arg.signExtend 16 })

/-- `AAA`, `AAB`, `AAT`, `AAX` add the signed argument; C, O, Q as the sum has it (R135 to R138; writing Q is the spec's decision
D8). -/
def Obligations.ArgumentAdds : Prop :=
  ∀ (arg : Byte) (s : State),
    let v : Word := arg.signExtend 16
    let sts (old : Word) : Byte :=
      addStatus s.cur.sts (decide (65536 ≤ old.toNat + v.toNat)) (outOfRange (old.toInt + arg.toInt))
    Completes (.aaa arg) s (fun t => SetsRegisters s t
      { s.cur with p := s.cur.p + 1, a := s.cur.a + v, sts := sts s.cur.a }) ∧
    Completes (.aab arg) s (fun t => SetsRegisters s t
      { s.cur with p := s.cur.p + 1, b := s.cur.b + v, sts := sts s.cur.b }) ∧
    Completes (.aat arg) s (fun t => SetsRegisters s t
      { s.cur with p := s.cur.p + 1, t := s.cur.t + v, sts := sts s.cur.t }) ∧
    Completes (.aax arg) s (fun t => SetsRegisters s t
      { s.cur with p := s.cur.p + 1, x := s.cur.x + v, sts := sts s.cur.x })

/-- `ADD`, `AND`, `ORA` (R140, R141, R143, R144): the encoding, the operand at EA, the result in A, the flags, and the fault of
an unreadable operand. -/
def Obligations.AddAndOr : Prop :=
  ∀ (m : MemOperand) (s : State),
    let word (i : Instr) : Word := encode s.params.opcodes i
    (word (.add m)).toNat = 0o060000 + m.value ∧ (word (.and m)).toNat = 0o070000 + m.value ∧
    (word (.ora m)).toNat = 0o074000 + m.value ∧
    (∀ ea v, effAddr s m = .ok ea → memRead s ea = .ok v →
      Completes (.add m) s (fun t => SetsRegisters s t { s.cur with
        p := s.cur.p + 1, a := s.cur.a + v
        sts := addStatus s.cur.sts (decide (65536 ≤ s.cur.a.toNat + v.toNat)) (outOfRange (s.cur.a.toInt + v.toInt)) }) ∧
      Completes (.and m) s (fun t => SetsRegisters s t { s.cur with p := s.cur.p + 1, a := s.cur.a &&& v }) ∧
      Completes (.ora m) s (fun t => SetsRegisters s t { s.cur with p := s.cur.p + 1, a := s.cur.a ||| v })) ∧
    (∀ f, (effAddr s m = .error f ∨ ∃ ea, effAddr s m = .ok ea ∧ memRead s ea = .error f) →
      (∃ pa kind, f = .translationFault pa kind) ∧
      exec (.add m) s = .fault f ∧ exec (.and m) s = .fault f ∧ exec (.ora m) s = .fault f)

/-- `SUB`: C is 1 exactly when there is no borrow, O and Q are signed overflow (R142). `MPY`: the low half of the product, O
and Q when its absolute value passes 32767, C kept (R145, the spec's decision D17). `MIN` (R306, D36): the incremented word is
stored; the next instruction is skipped when it is zero. The fault of the indirect read, of the operand's read and of `MIN`'s
write, before any change (R85). -/
def Obligations.SubtractMultiplyIncrement : Prop :=
  ∀ (m : MemOperand) (s : State),
    (∀ ea v, effAddr s m = .ok ea → memRead s ea = .ok v →
      Completes (.sub m) s (fun t => SetsRegisters s t { s.cur with
        p := s.cur.p + 1, a := s.cur.a - v
        sts := addStatus s.cur.sts (decide (v.toNat ≤ s.cur.a.toNat)) (outOfRange (s.cur.a.toInt - v.toInt)) }) ∧
      Completes (.mpy m) s (fun t => SetsRegisters s t { s.cur with
        p := s.cur.p + 1, a := s.cur.a * v
        sts := addStatus s.cur.sts (s.cur.sts.getLsbD 6) (decide (32767 < (s.cur.a.toInt * v.toInt).natAbs)) }) ∧
      (∀ pa, locate s ea .write = .ok pa → s.mem.wf = true → Completes (.min m) s (fun t => SetsAndStores s t
        { s.cur with p := if v + 1 = 0 then s.cur.p + 2 else s.cur.p + 1 } [(pa, v + 1)])) ∧
      (∀ f, locate s ea .write = .error f → exec (.min m) s = .fault f)) ∧
    (∀ f, (effAddr s m = .error f ∨ ∃ ea, effAddr s m = .ok ea ∧ memRead s ea = .error f) →
      (∃ pa kind, f = .translationFault pa kind) ∧
      exec (.sub m) s = .fault f ∧ exec (.mpy m) s = .fault f ∧ exec (.min m) s = .fault f)

/-! ## Bits -/

/-- `BSET` in its four forms, `BSTC` and `BSTA` write the addressed bit, the last two K after it (R152, R154 to R157, R162,
R163); a bit of P makes a jump (the spec's decision D22). -/
def Obligations.BitStores : Prop :=
  ∀ (bn : BitVec 4) (dr : RegField) (s : State), bitOperandOk bn dr = true →
    let k := s.cur.sts.getLsbD 2
    Completes (.bsetZro bn dr) s (fun t => BitEffect s t bn dr (some false) none) ∧
    Completes (.bsetOne bn dr) s (fun t => BitEffect s t bn dr (some true) none) ∧
    Completes (.bsetBcm bn dr) s (fun t => BitEffect s t bn dr (some (!addressedBit s bn dr)) none) ∧
    Completes (.bsetBac bn dr) s (fun t => BitEffect s t bn dr (some k) none) ∧
    Completes (.bstc bn dr) s (fun t => BitEffect s t bn dr (some (!k)) (some true)) ∧
    Completes (.bsta bn dr) s (fun t => BitEffect s t bn dr (some k) (some false))

/-- `BSKP` in its four forms skips by the addressed bit and K and writes nothing else (R158 to R161). That the BCM form skips when
the bit differs from K is the spec's own reading of a bar that its source lost (decision D44, general knowledge G6). -/
def Obligations.BitSkips : Prop :=
  ∀ (bn : BitVec 4) (dr : RegField) (s : State), bitOperandOk bn dr = true →
    let k := s.cur.sts.getLsbD 2
    let b := addressedBit s bn dr
    let next (c : Prop) [Decidable c] : Regs := { s.cur with p := if c then s.cur.p + 2 else s.cur.p + 1 }
    Completes (.bskpZro bn dr) s (fun t => SetsRegisters s t (next (b = false))) ∧
    Completes (.bskpOne bn dr) s (fun t => SetsRegisters s t (next (b = true))) ∧
    Completes (.bskpBcm bn dr) s (fun t => SetsRegisters s t (next (b ≠ k))) ∧
    Completes (.bskpBac bn dr) s (fun t => SetsRegisters s t (next (b = k)))

/-- `BLDC`, `BLDA`, `BANC`, `BAND`, `BORC`, `BORA` (R164 to R169): the encodings, K from the addressed bit and K and nothing else
written; the reserved operand of an STS bit above 7, on which the source is silent, is the spec's decision D24 (R153, R114). -/
def Obligations.BitOperationsOnK : Prop :=
  ∀ (bn : BitVec 4) (dr : RegField) (s : State),
    let word (i : Instr) : Word := encode s.params.opcodes i
    let field := 8 * bn.toNat + dr.bits.toNat
    let k := s.cur.sts.getLsbD 2
    let b := addressedBit s bn dr
    let loads (v : Bool) (t : State) : Prop :=
      SetsRegisters s t { s.cur with p := s.cur.p + 1, sts := withK s.cur.sts v }
    (word (.bldc bn dr)).toNat = 0o176400 + field ∧ (word (.blda bn dr)).toNat = 0o176600 + field ∧
    (word (.banc bn dr)).toNat = 0o177000 + field ∧ (word (.band bn dr)).toNat = 0o177200 + field ∧
    (word (.borc bn dr)).toNat = 0o177400 + field ∧ (word (.bora bn dr)).toNat = 0o177600 + field ∧
    (bitOperandOk bn dr = true →
      Completes (.bldc bn dr) s (loads (!b)) ∧ Completes (.blda bn dr) s (loads b) ∧
      Completes (.banc bn dr) s (loads (!b && k)) ∧ Completes (.band bn dr) s (loads (b && k)) ∧
      Completes (.borc bn dr) s (loads (!b || k)) ∧ Completes (.bora bn dr) s (loads (b || k))) ∧
    (bitOperandOk bn dr = false →
      ∀ i, i ∈ [Instr.bldc bn dr, .blda bn dr, .banc bn dr, .band bn dr, .borc bn dr, .bora bn dr] →
        exec i s = .fault (.reservedOperand (word i) .stsBitAbove7))

/-! ## Bytes -/

/-- One byte loaded into A with the left byte clear, or stored from A with the other byte of the word kept: logical (`LBYT`,
`SBYT`; R190 to R192) and physical (`LBYTP`, `SBYTP`; R208, R209); and the fault, before any change, of a word that is not
translated or not installed (R63, R85). -/
def Obligations.ByteLoadAndStore : Prop :=
  ∀ s : State,
    let addr := s.cur.t + s.cur.x >>> 1
    let pa := bankAddr s.cur.d addr
    (∀ w, memRead s addr = .ok w → Completes .lbyt s (fun t =>
      SetsRegisters s t { s.cur with p := s.cur.p + 1, a := byteOf w s.cur.x })) ∧
    (∀ w pw, memRead s addr = .ok w → locate s addr .write = .ok pw →
      s.mem.wf = true → Completes .sbyt s (fun t =>
        SetsAndStores s t { s.cur with p := s.cur.p + 1 } [(pw, withByte w s.cur.x (s.cur.a.extractLsb' 0 8))])) ∧
    (∀ f, memRead s addr = .error f → exec .lbyt s = .fault f ∧ exec .sbyt s = .fault f) ∧
    (∀ w f, memRead s addr = .ok w → locate s addr .write = .error f → exec .sbyt s = .fault f) ∧
    (privOk s = true → pa.toNat < s.params.physWords →
      Completes .lbytp s (fun t =>
        SetsRegisters s t { s.cur with p := s.cur.p + 1, a := byteOf (s.mem.readWord pa) s.cur.x }) ∧
      (s.mem.wf = true → Completes .sbytp s (fun t => SetsAndStores s t { s.cur with p := s.cur.p + 1 }
        [(pa, withByte (s.mem.readWord pa) s.cur.x (s.cur.a.extractLsb' 0 8))]))) ∧
    (privOk s = true → s.params.physWords ≤ pa.toNat →
      exec .lbytp s = .fault (.translationFault pa .nonexistent) ∧
        exec .sbytp s = .fault (.translationFault pa .nonexistent))

/-- `BFILL` (R193, R194). With memory management off: the bytes of the field, which wraps at 2^17, become the low byte of A, every
other byte stays. In general: one byte store after the other, from the first byte on, in the words that `locate` gives for
the read and the write; the first store that fails is the fault, before any change (R85). The descriptor stands at the byte
after the field with length 0. -/
def Obligations.ByteFill : Prop :=
  ∀ s : State,
    let start := firstByte s.cur.x s.cur.t
    let n := byteLength s s.cur.t
    let v : Byte := s.cur.a.extractLsb' 0 8
    let frame (t : State) : Prop :=
      t.cur = { s.cur with p := s.cur.p + 1, x := BitVec.ofNat 16 ((start + n) / 2), t := t.cur.t } ∧
      DescriptorAt s s.cur.t t.cur.t (start + n) 0 ∧ SameOtherLevels s t ∧ SameControl s t
    (BankZeroReady s → s.mem.wf = true → Completes .bfill s (fun t => frame t ∧
      (∀ k, k < 131072 → t.mem.readByte k =
        if (k + 131072 - start) % 131072 < n then v else s.mem.readByte k) ∧
      (∀ k, 131072 ≤ k → t.mem.readByte k = s.mem.readByte k))) ∧
    (∀ pr pw : Nat → PhysAddr, (∀ k, k < n → StoreReaches s (start + k) (pr k) (pw k)) → s.mem.wf = true →
      Completes .bfill s (fun t => frame t ∧ ∃ words : Nat → PhysAddr → Word,
        words 0 = s.mem.readWord ∧
        (∀ k, k < n → StoresByte (words k) (words (k + 1)) (pr k) (pw k) (start + k) v) ∧ HoldsWords s t (words n))) ∧
    (∀ k f, k < n → (∀ j, j < k → ∃ pr pw, StoreReaches s (start + j) pr pw) → StoreFails s (start + k) f →
      exec .bfill s = .fault f)

/-- `MOVB` and `MOVBF` (R195, R196): `MOVB` moves as if all bytes were read first, `MOVBF` one byte at a time in ascending order;
both descriptors are advanced, the source length becomes 0, the destination length the number of bytes moved. With memory
management off over bytes; in general over the words that `locate` gives for the read of the source and for the read and the
write of the destination. The first access that fails is the fault, before any change (R85): for `MOVB` all source reads come
first. -/
def Obligations.ByteMoves : Prop :=
  ∀ s : State,
    let src := firstByte s.cur.a s.cur.d
    let dst := firstByte s.cur.x s.cur.t
    let n := Nat.min (byteLength s s.cur.d) (byteLength s s.cur.t)
    let frame (t : State) : Prop :=
      t.cur = { s.cur with
        p := s.cur.p + 1, a := BitVec.ofNat 16 ((src + n) / 2), d := t.cur.d
        x := BitVec.ofNat 16 ((dst + n) / 2), t := t.cur.t } ∧
      DescriptorAt s s.cur.d t.cur.d (src + n) 0 ∧ DescriptorAt s s.cur.t t.cur.t (dst + n) n ∧
      SameOtherLevels s t ∧ SameControl s t
    let readable (k : Nat) : Prop := ∃ ps, locate s (byteWord (src + k)) .read = .ok ps
    let unreadable (k : Nat) (f : Fault) : Prop := locate s (byteWord (src + k)) .read = .error f
    let writable (k : Nat) : Prop := ∃ pr pw, StoreReaches s (dst + k) pr pw
    (BankZeroReady s → s.mem.wf = true →
      Completes .movb s (fun t => frame t ∧ (∀ k, 131072 ≤ k → t.mem.readByte k = s.mem.readByte k) ∧
        ∀ k, k < 131072 → t.mem.readByte k =
          if (k + 131072 - dst) % 131072 < n then s.mem.readByte ((src + (k + 131072 - dst)) % 131072)
          else s.mem.readByte k) ∧
      Completes .movbf s (fun t => frame t ∧ ∃ bytes : Nat → Nat → Byte,
        (∀ k, bytes 0 k = s.mem.readByte k) ∧
        (∀ i, i < n → ∀ k, bytes (i + 1) k =
          if k = (dst + i) % 131072 then bytes i ((src + i) % 131072) else bytes i k) ∧
        ∀ k, t.mem.readByte k = bytes n k)) ∧
    (∀ ps pr pw : Nat → PhysAddr, (∀ k, k < n → locate s (byteWord (src + k)) .read = .ok (ps k) ∧
        StoreReaches s (dst + k) (pr k) (pw k)) → s.mem.wf = true →
      Completes .movb s (fun t => frame t ∧ ∃ words : Nat → PhysAddr → Word,
        words 0 = s.mem.readWord ∧
        (∀ k, k < n → StoresByte (words k) (words (k + 1)) (pr k) (pw k) (dst + k) (byteIn (words 0) (ps k) (src + k))) ∧
        HoldsWords s t (words n)) ∧
      Completes .movbf s (fun t => frame t ∧ ∃ words : Nat → PhysAddr → Word,
        words 0 = s.mem.readWord ∧
        (∀ k, k < n → StoresByte (words k) (words (k + 1)) (pr k) (pw k) (dst + k) (byteIn (words k) (ps k) (src + k))) ∧
        HoldsWords s t (words n))) ∧
    (∀ k f, k < n →
      ((∀ j, j < k → readable j) → unreadable k f → exec .movb s = .fault f) ∧
      ((∀ j, j < n → readable j) → (∀ j, j < k → writable j) → StoreFails s (dst + k) f → exec .movb s = .fault f) ∧
      ((∀ j, j < k → readable j ∧ writable j) → unreadable k f ∨ readable k ∧ StoreFails s (dst + k) f →
        exec .movbf s = .fault f))

/-! ## SINTRAN control -/

/-- `WGLOB` writes the three global pointers and nothing else; `RGLOB` reads them (R201, R202); their words are the opcode
parameters, by default 140500₈ and 140501₈. -/
def Obligations.GlobalPointers : Prop :=
  encode Config.defaultOpcodes .wglob = 0o140500 ∧ encode Config.defaultOpcodes .rglob = 0o140501 ∧
  ∀ s : State,
    (privOk s = true →
      Completes .wglob s (fun t => SetsRegisters { s with stbnk := s.cur.t, stsrt := s.cur.a, cmbnk := s.cur.d } t
        { s.cur with p := s.cur.p + 1 }) ∧
      Completes .rglob s (fun t => SetsRegisters s t
        { s.cur with p := s.cur.p + 1, t := s.stbnk, a := s.stsrt, d := s.cmbnk })) ∧
    (privOk s = true ∨
      exec .wglob s = .fault (.privilegeViolation s.params.opcodes.wglob) ∧
        exec .rglob s = .fault (.privilegeViolation s.params.opcodes.rglob))

/-- The eight accesses to the segment-table bank and the core-map bank at B + Δ (R225 to R230, R232 to R234); that the low 8
bits of the pointer make the bank is the spec's decision D43 (R62). -/
def Obligations.TableBankAccesses : Prop :=
  ∀ (delta : BitVec 3) (s : State), privOk s = true →
    let seg := bankAddr s.stbnk (s.cur.b + delta.setWidth 16)
    let core := bankAddr s.cmbnk (s.cur.b + delta.setWidth 16)
    (seg.toNat < s.params.physWords →
      Completes (.lasb delta) s (fun t => SetsRegisters s t
        { s.cur with p := s.cur.p + 1, a := s.mem.readWord seg }) ∧
      Completes (.lxsb delta) s (fun t => SetsRegisters s t
        { s.cur with p := s.cur.p + 1, x := s.mem.readWord seg }) ∧
      (s.mem.wf = true →
        Completes (.sasb delta) s (fun t => SetsAndStores s t { s.cur with p := s.cur.p + 1 } [(seg, s.cur.a)]) ∧
        Completes (.szsb delta) s (fun t => SetsAndStores s t { s.cur with p := s.cur.p + 1 } [(seg, 0)]))) ∧
    (core.toNat < s.params.physWords →
      Completes (.lacb delta) s (fun t => SetsRegisters s t
        { s.cur with p := s.cur.p + 1, a := s.mem.readWord core }) ∧
      Completes (.lxcb delta) s (fun t => SetsRegisters s t
        { s.cur with p := s.cur.p + 1, x := s.mem.readWord core }) ∧
      (s.mem.wf = true →
        Completes (.sacb delta) s (fun t => SetsAndStores s t { s.cur with p := s.cur.p + 1 } [(core, s.cur.a)]) ∧
        Completes (.szcb delta) s (fun t => SetsAndStores s t { s.cur with p := s.cur.p + 1 } [(core, 0)]))) ∧
    (∀ i, s.params.physWords ≤ seg.toNat → i ∈ [Instr.lasb delta, .lxsb delta, .sasb delta, .szsb delta] →
      exec i s = .fault (.translationFault seg .nonexistent)) ∧
    (∀ i, s.params.physWords ≤ core.toNat → i ∈ [Instr.lacb delta, .lxcb delta, .sacb delta, .szcb delta] →
      exec i s = .fault (.translationFault core .nonexistent))

/-- Bits of arrays: `LBIT` and `LBITP` load K, `SBIT` and `SBITP` store it, in logical and in physical memory (R203 to R207; the
order of bits within a word is the parameter of the spec's decision D47); and the fault, before any change, of a word that is
not translated or not installed (R63, R85). -/
def Obligations.BitArrays : Prop :=
  ∀ s : State, privOk s = true →
    let addr := s.cur.x + s.cur.a >>> 4
    let pa := bankAddr s.cur.t addr
    let k := s.cur.sts.getLsbD 2
    (∀ w, memRead s addr = .ok w →
      Completes .lbit s (fun t => SetsRegisters s t
        { s.cur with p := s.cur.p + 1, sts := withK s.cur.sts (w.getLsbD (arrayBitPos s)) }) ∧
      (∀ pw, locate s addr .write = .ok pw → s.mem.wf = true → Completes .sbit s (fun t =>
        SetsAndStores s t { s.cur with p := s.cur.p + 1 } [(pw, withBit w (arrayBitPos s) k)])) ∧
      (∀ f, locate s addr .write = .error f → exec .sbit s = .fault f)) ∧
    (∀ f, memRead s addr = .error f → exec .lbit s = .fault f ∧ exec .sbit s = .fault f) ∧
    (pa.toNat < s.params.physWords →
      Completes .lbitp s (fun t => SetsRegisters s t
        { s.cur with p := s.cur.p + 1, sts := withK s.cur.sts ((s.mem.readWord pa).getLsbD (arrayBitPos s)) }) ∧
      (s.mem.wf = true → Completes .sbitp s (fun t => SetsAndStores s t { s.cur with p := s.cur.p + 1 }
        [(pa, withBit (s.mem.readWord pa) (arrayBitPos s) k)]))) ∧
    (s.params.physWords ≤ pa.toNat →
      exec .lbitp s = .fault (.translationFault pa .nonexistent) ∧
        exec .sbitp s = .fault (.translationFault pa .nonexistent))

/-- `RDUS`, `RDUSP` read a word into A; `TSET`, `TSETP` read it and leave all ones (R210, R231, R290, R291); and the fault, before
any change, of a word that is not translated (for `TSET` as a write) or not installed (R63, R85). -/
def Obligations.ReadAndTestAndSet : Prop :=
  ∀ s : State, privOk s = true →
    let pa := bankAddr s.cur.t s.cur.x
    (∀ w, memRead s s.cur.t = .ok w → Completes .rdus s (fun t =>
      SetsRegisters s t { s.cur with p := s.cur.p + 1, a := w })) ∧
    (∀ f, memRead s s.cur.t = .error f → exec .rdus s = .fault f) ∧
    (∀ pw, locate s s.cur.t .write = .ok pw → s.mem.wf = true → Completes .tset s (fun t =>
      SetsAndStores s t { s.cur with p := s.cur.p + 1, a := s.mem.readWord pw } [(pw, 0o177777)])) ∧
    (∀ f, locate s s.cur.t .write = .error f → exec .tset s = .fault f) ∧
    (pa.toNat < s.params.physWords →
      Completes .rdusp s (fun t => SetsRegisters s t { s.cur with p := s.cur.p + 1, a := s.mem.readWord pa }) ∧
      (s.mem.wf = true → Completes .tsetp s (fun t =>
        SetsAndStores s t { s.cur with p := s.cur.p + 1, a := s.mem.readWord pa } [(pa, 0o177777)]))) ∧
    (s.params.physWords ≤ pa.toNat →
      exec .rdusp s = .fault (.translationFault pa .nonexistent) ∧
        exec .tsetp s = .fault (.translationFault pa .nonexistent))

/-- `SETPT` and `CLEPT` (R211, R212): one pass of each loop with memory management off and all words installed; the loop runs
while X is not 0, at most 65536 times (the model's bound, log 21), and is stuck after that. -/
def Obligations.PageTableLoops : Prop :=
  (∀ s : State, AllReady s → s.mem.wf = true →
    let w := s.mem.readWord (bankAddr s.cur.t (s.cur.x + 1))
    let slot : Word := 0o177000#16 ||| (w <<< 1)
    let bits := withBit (s.mem.readWord (bankAddr s.cur.t (s.cur.x + 2))) 11 false
    let low := s.mem.readWord (bankAddr s.cur.t (s.cur.x + 3))
    (∃ t, setptOnce s = .ok t ∧ SetsAndStores s t
      { s.cur with a := bits, d := low, b := slot, x := t.mem.readWord (bankAddr s.cur.t s.cur.x) }
      [(BitVec.ofNat 24 slot.toNat, bits), (BitVec.ofNat 24 (slot + 1).toNat, low)]) ∧
    (∃ t, cleptOnce s = .ok t ∧ SetsAndStores s t
      { s.cur with a := wordAt s slot, b := slot, x := t.mem.readWord (bankAddr s.cur.t s.cur.x) }
      (if wordAt s slot = 0 then []
       else [(bankAddr s.cur.t (s.cur.x + 2), wordAt s slot), (BitVec.ofNat 24 slot.toNat, 0)]))) ∧
  (∀ (s : State) (i : Instr) (once : State → Except Fault State),
    (i = .setpt ∧ once = setptOnce ∨ i = .clept ∧ once = cleptOnce) → privOk s = true →
    (s.cur.x = 0 → Completes i s (fun t => SetsRegisters s t { s.cur with p := s.cur.p + 1 })) ∧
    (∀ (chain : Nat → State) (n : Nat), chain 0 = s → n ≤ 65536 →
      (∀ k, k < n → (chain k).cur.x ≠ 0 ∧ once (chain k) = .ok (chain (k + 1))) →
      ((chain n).cur.x = 0 → Completes i s (fun t => SetsRegisters (chain n) t
        { (chain n).cur with p := (chain n).cur.p + 1 })) ∧
      (∀ f, n < 65536 → (chain n).cur.x ≠ 0 → once (chain n) = .error f → exec i s = .fault f) ∧
      (n = 65536 → (chain n).cur.x ≠ 0 → exec i s = .fault .stuck)))

/-- The nine instructions without an algorithm in the source keep the contract R222 (the spec's decision D26; log 11): they end in
a next state within its frame or in a translation fault, and with all memory in reach they complete. -/
def Obligations.SintranContract : Prop :=
  ∀ (i : Instr) (s : State), i ∈ uninterpretedSintran → privOk s = true →
    ((∃ t, exec i s = .next t ∧ SintranFrame s t) ∨ ∃ pa kind, exec i s = .fault (.translationFault pa kind)) ∧
    (AllReady s → Completes i s (SintranFrame s))

/-- The six decimal instructions keep the contract R251 (the spec's decision D25; log 12): a next state within its frame or a
translation fault; with bank 0 in reach they complete. Memory changes only in words of the operand fields that D1 and D2
describe (R243), where a write reaches them. An error, P at the next instruction, sets Z (R468, log 34). `COMD` writes no
memory and leaves 0, 1 or -1 on success; `PACK` and `UPACK` that do not skip leave an error code 2 or 3 in D (R244, R247). -/
def Obligations.DecimalContract : Prop :=
  ∀ (i : Instr) (s : State), i ∈ [Instr.addd, .subd, .comd, .pack, .upack, .shde] →
    let effect (t : State) : Prop :=
      DecimalFrame s t ∧
      (∀ k : Nat, t.mem.readByte k ≠ s.mem.readByte k → ∃ addr ∈ decimalFields i s, ∃ pa,
        locate s addr .write = .ok pa ∧ k / 2 = pa.toNat) ∧
      (t.cur.p = s.cur.p + 1 → t.cur.sts.getLsbD 3 = true) ∧
      (i = .comd → SameMemory s t ∧
        (t.cur.p = s.cur.p + 2 → t.cur.a = 0 ∨ t.cur.a = 1 ∨ t.cur.a = 0o177777)) ∧
      (i = .pack ∨ i = .upack → t.cur.p = s.cur.p + 1 →
        t.cur.d.extractLsb' 0 5 = 2#5 ∨ t.cur.d.extractLsb' 0 5 = 3#5)
    ((∃ t, exec i s = .next t ∧ effect t) ∨ ∃ pa kind, exec i s = .fault (.translationFault pa kind)) ∧
    (BankZeroReady s → Completes i s effect)

/-! ## Memory transfer -/

/-- The loads `LDA`, `LDT`, `LDX`, `LDD`, `LDF` (R300, R301, R303 to R305, R421): registers from the words at EA, no flag; and the
fault of the first read that fails, before any change (R85). -/
def Obligations.LoadsFromMemory : Prop :=
  ∀ (m : MemOperand) (s : State),
    let word (i : Instr) : Word := encode s.params.opcodes i
    (word (.lda m)).toNat = 0o044000 + m.value ∧ (word (.ldt m)).toNat = 0o050000 + m.value ∧
    (word (.ldx m)).toNat = 0o054000 + m.value ∧ (word (.ldd m)).toNat = 0o024000 + m.value ∧
    (word (.ldf m)).toNat = 0o034000 + m.value ∧
    (∀ ea v, effAddr s m = .ok ea → memRead s ea = .ok v →
      Completes (.lda m) s (fun t => SetsRegisters s t { s.cur with p := s.cur.p + 1, a := v }) ∧
      Completes (.ldt m) s (fun t => SetsRegisters s t { s.cur with p := s.cur.p + 1, t := v }) ∧
      Completes (.ldx m) s (fun t => SetsRegisters s t { s.cur with p := s.cur.p + 1, x := v }) ∧
      (∀ v1, memRead s (ea + 1) = .ok v1 →
        Completes (.ldd m) s (fun t => SetsRegisters s t { s.cur with p := s.cur.p + 1, a := v, d := v1 }) ∧
        (s.params.float48 = false → Completes (.ldf m) s (fun t =>
          SetsRegisters s t { s.cur with p := s.cur.p + 1, a := v, d := v1 })) ∧
        (∀ v2, s.params.float48 = true → memRead s (ea + 2) = .ok v2 → Completes (.ldf m) s (fun t =>
          SetsRegisters s t { s.cur with p := s.cur.p + 1, t := v, a := v1, d := v2 })))) ∧
    (∀ i f, i ∈ [Instr.lda m, .ldt m, .ldx m, .ldd m, .ldf m] →
      (effAddr s m = .error f ∨ ∃ ea, effAddr s m = .ok ea ∧ memRead s ea = .error f) → exec i s = .fault f) ∧
    (∀ ea v f, effAddr s m = .ok ea → memRead s ea = .ok v →
      (memRead s (ea + 1) = .error f → exec (.ldd m) s = .fault f ∧ exec (.ldf m) s = .fault f) ∧
      (∀ v1, memRead s (ea + 1) = .ok v1 → s.params.float48 = true → memRead s (ea + 2) = .error f →
        exec (.ldf m) s = .fault f))

/-- The stores `STA`, `STT`, `STX`, `STZ`, `STD`, `STF` (R302, R307 to R310, R422): the words at EA from registers, no flag; and the
fault of the first write that fails, before any change (R85). -/
def Obligations.StoresToMemory : Prop :=
  ∀ (m : MemOperand) (s : State),
    let word (i : Instr) : Word := encode s.params.opcodes i
    (word (.sta m)).toNat = 0o004000 + m.value ∧ (word (.stt m)).toNat = 0o010000 + m.value ∧
    (word (.stx m)).toNat = 0o014000 + m.value ∧ (word (.stz m)).toNat = m.value ∧
    (word (.std m)).toNat = 0o020000 + m.value ∧ (word (.stf m)).toNat = 0o030000 + m.value ∧
    (∀ ea p0, effAddr s m = .ok ea → locate s ea .write = .ok p0 → s.mem.wf = true →
      let next : Regs := { s.cur with p := s.cur.p + 1 }
      Completes (.sta m) s (fun t => SetsAndStores s t next [(p0, s.cur.a)]) ∧
      Completes (.stt m) s (fun t => SetsAndStores s t next [(p0, s.cur.t)]) ∧
      Completes (.stx m) s (fun t => SetsAndStores s t next [(p0, s.cur.x)]) ∧
      Completes (.stz m) s (fun t => SetsAndStores s t next [(p0, 0)]) ∧
      (∀ p1, locate s (ea + 1) .write = .ok p1 →
        Completes (.std m) s (fun t => SetsAndStores s t next [(p0, s.cur.a), (p1, s.cur.d)]) ∧
        (s.params.float48 = false → Completes (.stf m) s (fun t =>
          SetsAndStores s t next [(p0, s.cur.a), (p1, s.cur.d)])) ∧
        (∀ p2, s.params.float48 = true → locate s (ea + 2) .write = .ok p2 → Completes (.stf m) s (fun t =>
          SetsAndStores s t next [(p0, s.cur.t), (p1, s.cur.a), (p2, s.cur.d)])))) ∧
    (∀ i f, i ∈ [Instr.sta m, .stt m, .stx m, .stz m, .std m, .stf m] →
      (effAddr s m = .error f ∨ ∃ ea, effAddr s m = .ok ea ∧ locate s ea .write = .error f) → exec i s = .fault f) ∧
    (∀ ea p0 f, effAddr s m = .ok ea → locate s ea .write = .ok p0 →
      (locate s (ea + 1) .write = .error f → exec (.std m) s = .fault f ∧ exec (.stf m) s = .fault f) ∧
      (∀ p1, locate s (ea + 1) .write = .ok p1 → s.params.float48 = true → locate s (ea + 2) .write = .error f →
        exec (.stf m) s = .fault f))

/-- Physical transfers: the seven `…TX` instructions at X + Δ in the bank of T, `DEPO` and `EXAM` at D in the bank of A (R316 to
R323, R328, R329; the bank's 8 bits are the spec's decision D43); a word that is not installed, the second of `LDDTX` and `STDTX`
too, is the fault before any change (R63, R85). -/
def Obligations.PhysicalTransfers : Prop :=
  ∀ (delta : BitVec 3) (s : State), privOk s = true →
    let off := s.cur.x + delta.setWidth 16
    let p0 := bankAddr s.cur.t off
    let p1 := bankAddr s.cur.t (off + 1)
    let pa := bankAddr s.cur.a s.cur.d
    let next : Regs := { s.cur with p := s.cur.p + 1 }
    (p0.toNat < s.params.physWords →
      Completes (.ldatx delta) s (fun t => SetsRegisters s t { next with a := s.mem.readWord p0 }) ∧
      Completes (.ldxtx delta) s (fun t => SetsRegisters s t { next with x := s.mem.readWord p0 }) ∧
      Completes (.ldbtx delta) s (fun t => SetsRegisters s t
        { next with b := 0o177000#16 ||| BitVec.ofNat 16 (2 * (s.mem.readWord p0).toNat) }) ∧
      (p1.toNat < s.params.physWords → Completes (.lddtx delta) s (fun t => SetsRegisters s t
        { next with a := s.mem.readWord p0, d := s.mem.readWord p1 })) ∧
      (s.mem.wf = true →
        Completes (.statx delta) s (fun t => SetsAndStores s t next [(p0, s.cur.a)]) ∧
        Completes (.stztx delta) s (fun t => SetsAndStores s t next [(p0, 0)]) ∧
        (p1.toNat < s.params.physWords → Completes (.stdtx delta) s (fun t =>
          SetsAndStores s t next [(p0, s.cur.a), (p1, s.cur.d)])))) ∧
    (pa.toNat < s.params.physWords →
      Completes .exam s (fun t => SetsRegisters s t { next with t := s.mem.readWord pa }) ∧
      (s.mem.wf = true → Completes .depo s (fun t => SetsAndStores s t next [(pa, s.cur.t)]))) ∧
    (∀ i, s.params.physWords ≤ p0.toNat →
      i ∈ [Instr.ldatx delta, .ldxtx delta, .ldbtx delta, .lddtx delta, .statx delta, .stztx delta, .stdtx delta] →
      exec i s = .fault (.translationFault p0 .nonexistent)) ∧
    (p0.toNat < s.params.physWords → s.params.physWords ≤ p1.toNat →
      exec (.lddtx delta) s = .fault (.translationFault p1 .nonexistent) ∧
        exec (.stdtx delta) s = .fault (.translationFault p1 .nonexistent)) ∧
    (s.params.physWords ≤ pa.toNat →
      exec .exam s = .fault (.translationFault pa .nonexistent) ∧
        exec .depo s = .fault (.translationFault pa .nonexistent))

/-! ## Register operations -/

/-- `RADD` with ADC, AD1, CM1, CLD, and its six names (R341 to R351): `COPY` with CLD, `RSUB` with AD1 and CM1, `RINC` with AD1
and no source, `RDCR` with CM1 and no source, `RCLR` with CLD and no source, `EXIT` as the copy of L to P. -/
def Obligations.RegisterAdditions : Prop :=
  ∀ (adc ad1 cm1 cld : Bool) (sr dr : RegField) (s : State),
    AddsInto (.radd adc ad1 cm1 cld sr dr) s adc ad1 cm1 cld sr dr ∧
    AddsInto (.copy adc ad1 cm1 sr dr) s adc ad1 cm1 true sr dr ∧
    AddsInto (.rsub cld sr dr) s false true true cld sr dr ∧
    AddsInto (.rinc dr) s false true false false .code0 dr ∧
    AddsInto (.rdcr dr) s false false true false .code0 dr ∧
    AddsInto (.rclr dr) s false false false true .code0 dr ∧
    Completes .exit s (fun t => SetsRegisters s t { s.cur with p := s.cur.l, sts := addStatus s.cur.sts false false })

/-- `RAND`, `REXO`, `RORA` with CM1 and CLD, no flag; `SWAP` gives the source register the destination operand, then the
destination register the source operand (R352 to R356). -/
def Obligations.RegisterLogicAndSwap : Prop :=
  ∀ (cm1 cld : Bool) (sr dr : RegField) (s : State),
    let d : Word := if cld then 0 else s.cur.operand dr
    let v : Word := if cm1 then ~~~s.cur.operand sr else s.cur.operand sr
    Completes (.rand cm1 cld sr dr) s (fun t => WritesRegister s t dr (d &&& v) s.cur.sts) ∧
    Completes (.rexo cm1 cld sr dr) s (fun t => WritesRegister s t dr (d ^^^ v) s.cur.sts) ∧
    Completes (.rora cm1 cld sr dr) s (fun t => WritesRegister s t dr (d ||| v) s.cur.sts) ∧
    Completes (.swap cm1 cld sr dr) s (fun t =>
      t.cur.sts = s.cur.sts ∧
      t.cur.p = (if dr = .p then v else if sr = .p then d else s.cur.p + 1) ∧
      (∀ f : RegField, f ≠ .code0 → f ≠ .p →
        t.cur.operand f = if f = dr then v else if f = sr then d else s.cur.operand f) ∧
      SameOtherLevels s t ∧ SameControl s t ∧ SameMemory s t)

/-- `RMPY`: the signed product in A and D. `RDIV`: quotient toward zero and remainder; division by zero or a quotient outside a
word sets Z and leaves A and D open. C, O and Q are open after both (R357, R358; the model's log 7). `MIX3`: X becomes
(A - 1) * 3 (R359). -/
def Obligations.RegisterProducts : Prop :=
  ∀ (sr dr : RegField) (s : State),
    let frame (t : State) : Prop :=
      t.cur = { s.cur with p := s.cur.p + 1, a := t.cur.a, d := t.cur.d, sts := t.cur.sts } ∧
      t.cur.sts.extractLsb' 0 3 = s.cur.sts.extractLsb' 0 3 ∧ t.cur.sts.getLsbD 7 = s.cur.sts.getLsbD 7 ∧
      SameOtherLevels s t ∧ SameControl s t ∧ SameMemory s t
    let n : Int := (s.cur.a ++ s.cur.d : BitVec 32).toInt
    let v : Int := (s.cur.operand sr).toInt
    Completes (.rmpy sr dr) s (fun t => frame t ∧ t.cur.sts.getLsbD 3 = s.cur.sts.getLsbD 3 ∧
      (t.cur.a ++ t.cur.d : BitVec 32).toInt = v * (s.cur.operand dr).toInt) ∧
    Completes (.rdiv sr dr) s (fun t => frame t ∧
      (v ≠ 0 ∧ outOfRange (n.tdiv v) = false → t.cur.sts.getLsbD 3 = s.cur.sts.getLsbD 3 ∧
        t.cur.a.toInt = n.tdiv v ∧ t.cur.d.toInt = n.tmod v) ∧
      (v = 0 ∨ outOfRange (n.tdiv v) = true → t.cur.sts.getLsbD 3 = true)) ∧
    Completes .mix3 s (fun t => SetsRegisters s t
      { s.cur with p := s.cur.p + 1, x := BitVec.ofInt 16 ((s.cur.a.toInt - 1) * 3) })

/-- `TRA`, `TRR`, `MST`, `MCL` (R31, R40, R41, R370 to R373): STS, PID and PIE; PCR and IIE written by `TRR`; a register the model does
not hold reads as any value and takes none (the spec's decision D11; logs 7 and 26). -/
def Obligations.InternalRegisterTransfers : Prop :=
  ∀ s : State, privOk s = true →
    let next : Regs := { s.cur with p := s.cur.p + 1 }
    (∀ n : BitVec 4, n ≠ 0o16 → Completes (.tra n) s (fun t =>
      SetsRegisters s t { next with a := t.cur.a } ∧ (n = 1 → t.cur.a = statusRead s) ∧
      (n = 6 → t.cur.a = s.pid) ∧ (n = 7 → t.cur.a = s.pie))) ∧
    (∀ n : BitVec 4, n ≠ 0o4 → n ≠ 0o14 → n ≠ 0o16 → Completes (.trr n) s (fun t =>
      SetsRegisters { s with
          pcr := if n = 3 then s.cur.a else s.pcr, iie := if n = 5 then s.cur.a else s.iie
          pid := if n = 6 then s.cur.a else s.pid, pie := if n = 7 then s.cur.a else s.pie } t
        { next with sts := if n = 1 then s.cur.a.extractLsb' 0 8 else s.cur.sts })) ∧
    (∀ n : BitVec 4, n = 1 ∨ n = 6 ∨ n = 7 →
      Completes (.mst n) s (fun t => SetsRegisters { s with
          pid := if n = 6 then s.pid ||| s.cur.a else s.pid, pie := if n = 7 then s.pie ||| s.cur.a else s.pie } t
        { next with sts := if n = 1 then s.cur.sts ||| s.cur.a.extractLsb' 0 8 else s.cur.sts }) ∧
      Completes (.mcl n) s (fun t => SetsRegisters { s with
          pid := if n = 6 then s.pid &&& ~~~s.cur.a else s.pid
          pie := if n = 7 then s.pie &&& ~~~s.cur.a else s.pie } t
        { next with sts := if n = 1 then s.cur.sts &&& ~~~s.cur.a.extractLsb' 0 8 else s.cur.sts }))

/-! ## Levels -/

/-- `IRR` reads one register of any level into A, `IRW` writes one from A (R272, R273): STS of another level has open bits 15-8
when read (R31, log 7) and takes bits 7-0 when written; P of the current level reads as the instruction's address and takes a jump. -/
def Obligations.InterLevelRegisters : Prop :=
  ∀ (level : Level) (s : State), privOk s = true →
    (∀ r : RegField, r ≠ .code0 → Completes (.irr level r) s (fun t =>
      SetsRegisters s t { s.cur with p := s.cur.p + 1, a := (s.lv level).operand r })) ∧
    Completes (.irr level .code0) s (fun t =>
      SetsRegisters s t { s.cur with p := s.cur.p + 1, a := t.cur.a } ∧
      t.cur.a.extractLsb' 0 8 = (s.lv level).sts ∧ (level = s.pil → t.cur.a = statusRead s)) ∧
    (∀ r : RegField, Completes (.irw level r) s (fun t =>
      (∀ n : Level, n ≠ level → n ≠ s.pil → t.lv n = s.lv n) ∧ SameControl s t ∧ SameMemory s t ∧
      (level ≠ s.pil → t.cur = { s.cur with p := s.cur.p + 1 }) ∧
      (t.lv level).sts = (if r = .code0 then s.cur.a.extractLsb' 0 8 else (s.lv level).sts) ∧
      (t.lv level).p = (if r = .p then s.cur.a else if level = s.pil then s.cur.p + 1 else (s.lv level).p) ∧
      ∀ f : RegField, f ≠ .code0 → f ≠ .p →
        (t.lv level).operand f = if f = r then s.cur.a else (s.lv level).operand f))

/-- `LRB` and `SRB` (R31, R331 to R333; the spec's decisions D23, D32): the block of eight words P X T A D L STS B at X; of the
current level `LRB` keeps P, which passes it, and `SRB` stores the P after it; `SRB` of another level leaves bits 15-8 of the
STS word open. -/
def Obligations.RegisterBlocks : Prop :=
  ∀ (level : Level) (s : State), privOk s = true →
    (∀ w : Nat → Word, (∀ k, k < 8 → memRead s (s.cur.x + BitVec.ofNat 16 k) = .ok (w k)) →
      Completes (.lrb level) s (fun t =>
        t.lv level = { p := if level = s.pil then s.cur.p + 1 else w 0
                       x := w 1, t := w 2, a := w 3, d := w 4, l := w 5, sts := (w 6).extractLsb' 0 8, b := w 7 } ∧
        (level ≠ s.pil → t.cur = { s.cur with p := s.cur.p + 1 }) ∧
        (∀ n : Level, n ≠ level → n ≠ s.pil → t.lv n = s.lv n) ∧ SameControl s t ∧ SameMemory s t)) ∧
    (∀ q : Nat → PhysAddr, (∀ k, k < 8 → locate s (s.cur.x + BitVec.ofNat 16 k) .write = .ok (q k)) →
      s.mem.wf = true → Completes (.srb level) s (fun t => ∃ status : Word,
        status.extractLsb' 0 8 = (s.lv level).sts ∧ (level = s.pil → status = statusRead s) ∧
        SetsAndStores s t { s.cur with p := s.cur.p + 1 }
          [(q 0, if level = s.pil then s.cur.p + 1 else (s.lv level).p), (q 1, (s.lv level).x), (q 2, (s.lv level).t),
            (q 3, (s.lv level).a), (q 4, (s.lv level).d), (q 5, (s.lv level).l), (q 6, status), (q 7, (s.lv level).b)]))

/-- `MON n` (R326, R454; that it requests level 14 is the spec's decision D38): n sign-extended to T of level 14, PID bit 14 set, P
advanced; level 14 is entered next if it is enabled, the interrupt system is on and level 15 does not request. -/
def Obligations.MonitorCall : Prop :=
  ∀ (n : Byte) (s : State), Completes (.mon n) s (fun t =>
    (s.pil ≠ 14 → t.cur = { s.cur with p := s.cur.p + 1 } ∧ t.lv 14 = { s.lv 14 with t := n.signExtend 16 }) ∧
    (s.pil = 14 → t.cur = { s.cur with p := s.cur.p + 1, t := n.signExtend 16 }) ∧
    (∀ k : Level, k ≠ 14 → k ≠ s.pil → t.lv k = s.lv k) ∧
    SameControl { s with pid := s.pid ||| 0o40000#16 } t ∧ SameMemory s t ∧
    (s.ioni = true → s.pie.getLsbD 14 = true → (s.pid.getLsbD 15 && s.pie.getLsbD 15) = false →
      (levelChange t).pil = 14))

/-- `IOF`, `POF`, `PIOF`, `PION`, `REX`, `SEX` (R277, R280, R293, R294, R296, R297): the encodings, the switches they set, and
nothing else. While IONI is off no level change happens; after `POF` every privileged instruction is legal. -/
def Obligations.ModeSwitches : Prop :=
  ∀ s : State,
    let word (i : Instr) : Word := encode s.params.opcodes i
    word .iof = 0o150401 ∧ word .pof = 0o150404 ∧ word .piof = 0o150405 ∧ word .pion = 0o150412 ∧
    word .rex = 0o150407 ∧ word .sex = 0o150406 ∧
    (privOk s = true →
      let next : Regs := { s.cur with p := s.cur.p + 1 }
      Completes .iof s (fun t => SetsRegisters { s with ioni := false } t next ∧ levelChange t = t) ∧
      Completes .pof s (fun t => SetsRegisters { s with poni := false } t next ∧ privOk t = true) ∧
      Completes .piof s (fun t => SetsRegisters { s with poni := false, ioni := false } t next ∧ levelChange t = t) ∧
      Completes .pion s (fun t => SetsRegisters { s with poni := true, ioni := true } t next) ∧
      Completes .rex s (fun t => SetsRegisters { s with sexi := false } t next) ∧
      Completes .sex s (fun t => SetsRegisters { s with sexi := true } t next)) ∧
    (privOk s = true ∨ ∀ i, i ∈ [Instr.iof, .pof, .piof, .pion, .rex, .sex] →
      exec i s = .fault (.privilegeViolation (word i)))

/-- `ION` and `PON` set their switch and nothing else (R278, R295); `LWCS` only advances P on the ND-110 (R330, R115; the spec's
decisions D30, D41). -/
def Obligations.IonPonAndLwcs : Prop :=
  ∀ s : State, privOk s = true →
    let next : Regs := { s.cur with p := s.cur.p + 1 }
    Completes .ion s (fun t => SetsRegisters { s with ioni := true } t next) ∧
    Completes .pon s (fun t => SetsRegisters { s with poni := true } t next) ∧
    (s.params.cpuModel = .nd110 → Completes .lwcs s (fun t => SetsRegisters s t next)) ∧
    (s.params.cpuModel = .nd100 → exec .lwcs s = .refused (.unmodelledInstruction "LWCS"))

/-- `WAIT` stops with the interrupt system off, does nothing on level 0, else clears the level's PID bit; `OPCOM` stops (R279, R281,
R449, R466; the spec's decision D12). P passes the instruction in every case; a stopped machine's next step answers `halted`
(log 16). -/
def Obligations.WaitAndOpcom : Prop :=
  ∀ (n : Byte) (s : State), privOk s = true →
    let next : Regs := { s.cur with p := s.cur.p + 1 }
    (s.ioni = false → Completes (.wait n) s (fun t =>
      SetsRegisters { s with run := .off (.wait n) } t next ∧ step t = .fault (.halted (.wait n)))) ∧
    (s.ioni = true → s.pil = 0 → Completes (.wait n) s (fun t => SetsRegisters s t next)) ∧
    (s.ioni = true → s.pil ≠ 0 → Completes (.wait n) s (fun t =>
      SetsRegisters { s with pid := s.pid &&& ~~~(1#16 <<< s.pil.toNat) } t next)) ∧
    Completes .opcom s (fun t =>
      SetsRegisters { s with run := .off .opcom } t next ∧ step t = .fault (.halted .opcom))

/-- `IOX`, `IOXT`, `IDENT` (R265, R266, R276, R492): bit 0 of the device address selects input to A or output of A; each exchange is
one event of the I/O trace; what the host answers is open (log 8). -/
def Obligations.InputOutput : Prop :=
  ∀ s : State, privOk s = true →
    let next : Regs := { s.cur with p := s.cur.p + 1 }
    let exchanges (dev : Word) (t : State) : Prop :=
      if dev.getLsbD 0 then
        SetsRegisters { s with ioTrace := s.ioTrace ++ [.write dev s.cur.a] } t next
      else ∃ v, SetsRegisters { s with ioTrace := s.ioTrace ++ [.read dev v] } t { next with a := v }
    (∀ addr : BitVec 11, Completes (.iox addr) s (exchanges (addr.setWidth 16))) ∧
    Completes .ioxt s (exchanges s.cur.t) ∧
    (∀ c, c ∈ [((0o04 : BitVec 6), (10 : Level)), (0o11, 11), (0o22, 12), (0o43, 13)] →
      Completes (.ident c.1) s (fun t => ∃ v,
        SetsRegisters { s with ioTrace := s.ioTrace ++ [.ident c.2 v] } t { next with a := v }))

/-! ## Sequencing -/

/-- The eight conditional jumps (R380 to R388): P + displacement where the condition holds, else P + 1; `JPC` and `JNC` increment
X first; zero is positive only under JAP_ZERO_JUMPS (the spec's decision D49). -/
def Obligations.ConditionalJumps : Prop :=
  ∀ (disp : Byte) (s : State),
    let next (c : Prop) [Decidable c] : Word := if c then s.cur.p + disp.signExtend 16 else s.cur.p + 1
    let x1 := s.cur.x + 1
    Completes (.jap disp) s (fun t => SetsRegisters s t
      { s.cur with p := next (0 < s.cur.a.toInt ∨ s.cur.a = 0 ∧ s.params.japZeroJumps = true) }) ∧
    Completes (.jan disp) s (fun t => SetsRegisters s t { s.cur with p := next (s.cur.a.toInt < 0) }) ∧
    Completes (.jaz disp) s (fun t => SetsRegisters s t { s.cur with p := next (s.cur.a = 0) }) ∧
    Completes (.jaf disp) s (fun t => SetsRegisters s t { s.cur with p := next (s.cur.a ≠ 0) }) ∧
    Completes (.jpc disp) s (fun t => SetsRegisters s t
      { s.cur with x := x1, p := next (0 < x1.toInt ∨ x1 = 0 ∧ s.params.japZeroJumps = true) }) ∧
    Completes (.jnc disp) s (fun t => SetsRegisters s t { s.cur with x := x1, p := next (x1.toInt < 0) }) ∧
    Completes (.jxz disp) s (fun t => SetsRegisters s t { s.cur with p := next (s.cur.x = 0) }) ∧
    Completes (.jxn disp) s (fun t => SetsRegisters s t { s.cur with p := next (s.cur.x.toInt < 0) })

/-- `JMP` and `JPL` (R389, R390): P becomes EA; `JPL` leaves the address after itself in L. -/
def Obligations.JumpAndLink : Prop :=
  ∀ (m : MemOperand) (s : State),
    let word (i : Instr) : Word := encode s.params.opcodes i
    (word (.jmp m)).toNat = 0o124000 + m.value ∧ (word (.jpl m)).toNat = 0o134000 + m.value ∧
    (∀ ea, effAddr s m = .ok ea →
      Completes (.jmp m) s (fun t => SetsRegisters s t { s.cur with p := ea }) ∧
      Completes (.jpl m) s (fun t => SetsRegisters s t { s.cur with p := ea, l := s.cur.p + 1 })) ∧
    (∀ f, effAddr s m = .error f → exec (.jmp m) s = .fault f ∧ exec (.jpl m) s = .fault f)

/-- The shifts in closed form (R395 to R399; the reading of LIN and of a count of 0 is the spec's decision D19): `ShiftedBy`, with
M, bit 7 of STS, as the only flag. -/
def Obligations.ShiftsInClosedForm : Prop :=
  ∀ (ty : ShiftType) (count : BitVec 6) (s : State),
    let m := s.cur.sts.getLsbD 7
    Completes (.sht ty count) s (fun t => ∃ v m', ShiftedBy ty count s.cur.t m v m' ∧
      SetsRegisters s t { s.cur with p := s.cur.p + 1, t := v, sts := withM s.cur.sts m' }) ∧
    Completes (.shd ty count) s (fun t => ∃ v m', ShiftedBy ty count s.cur.d m v m' ∧
      SetsRegisters s t { s.cur with p := s.cur.p + 1, d := v, sts := withM s.cur.sts m' }) ∧
    Completes (.sha ty count) s (fun t => ∃ v m', ShiftedBy ty count s.cur.a m v m' ∧
      SetsRegisters s t { s.cur with p := s.cur.p + 1, a := v, sts := withM s.cur.sts m' }) ∧
    Completes (.sad ty count) s (fun t => ∃ v a d m', ShiftedBy ty count (s.cur.a ++ s.cur.d : BitVec 32) m v m' ∧
      v = a ++ d ∧ SetsRegisters s t { s.cur with p := s.cur.p + 1, a := a, d := d, sts := withM s.cur.sts m' })

/-- The conditions of `SKP` (R404): what each adds to the word, and the relation it decides between d and s; `GEQ` and `LSS` agree
with the signed order where the subtraction does not overflow. -/
def Obligations.SkipConditions : Prop :=
  (∀ (o : Opcodes) (sr dr : RegField), ∀ c, c ∈ [(SkipCond.eql, 0), (.geq, 0o400), (.gre, 0o1000), (.mgre, 0o1400), (.ueq, 0o2000),
      (.lss, 0o2400), (.lst, 0o3000), (.mlst, 0o3400)] →
    (encode o (.skp c.1 sr dr)).toNat = 0o140000 + c.2 + 8 * sr.bits.toNat + dr.bits.toNat) ∧
  (∀ (cond : SkipCond) (d s : Word), skipHolds cond (compareWords d s) = true ↔ skipRelation cond d s) ∧
  (∀ d s : Word, (compareWords d s).o = outOfRange (d.toInt - s.toInt) ∧
    ((compareWords d s).o = false →
      (skipRelation .geq d s ↔ s.toInt ≤ d.toInt) ∧ (skipRelation .lss d s ↔ d.toInt < s.toInt)))

/-- `SKP` skips by its relation and writes no register and, by default, no flag; with SKP_WRITES_STS it writes C, O, Q (R403, R405,
R406; the spec's decision D7). -/
def Obligations.SkipEffect : Prop :=
  ∀ (cond : SkipCond) (sr dr : RegField) (s : State),
    let d := s.cur.operand dr
    let v := s.cur.operand sr
    Completes (.skp cond sr dr) s (fun t => ∃ r : Regs, SetsRegisters s t r ∧
      r = { s.cur with p := r.p, sts := r.sts } ∧
      (skipRelation cond d v → r.p = s.cur.p + 2) ∧ (¬skipRelation cond d v → r.p = s.cur.p + 1) ∧
      (s.params.skpWritesSts = false → r.sts = s.cur.sts) ∧
      (s.params.skpWritesSts = true →
        r.sts = addStatus s.cur.sts (decide (v.toNat ≤ d.toNat)) (outOfRange (d.toInt - v.toInt))))

/-! ## Stack, floating point, system -/

/-- `ENTR` (R412) and `INIT` (R413, under INIT_LAYOUT, the spec's decision D51; log 22): the four words of the new frame, B, and
the continuation that the overflow test and, for `INIT`, the flag decide. The test is a parameter; by default it is STP > SMAX
(the spec's decision D50). -/
def Obligations.StackFrameEntry : Prop :=
  ∀ s : State, s.mem.wf = true →
    (s.params.stackTest = .exceedsSmax → ∀ stp smax, stackOverflow s.params stp smax = decide (smax.toNat < stp)) ∧
    (∀ demand oldStp smax q1 q2 q3 q4,
      let b1 := oldStp + 0o200
      let stp := b1.toNat + demand.toNat
      memRead s (s.cur.p + 1) = .ok demand → memRead s (s.cur.b - 0o176) = .ok oldStp →
      memRead s (s.cur.b - 0o175) = .ok smax →
      locate s (b1 - 0o177) .write = .ok q1 → locate s (b1 - 0o175) .write = .ok q2 →
      locate s (b1 - 0o200) .write = .ok q3 → locate s (b1 - 0o176) .write = .ok q4 →
      Completes .entr s (fun t => SetsAndStores s t
        { s.cur with b := b1, p := s.cur.p + if stackOverflow s.params stp smax then 2 else 3 }
        [(q1, s.cur.b), (q2, smax), (q3, s.cur.l + 1), (q4, BitVec.ofNat 16 stp)])) ∧
    (∀ start size flag demand q1 q2 q3 q4,
      let y := s.params.initLayout
      let b1 := start + 0o200
      let smax := start + size
      let stp := b1.toNat + demand.toNat
      s.params.initModelled = true →
      memRead s (s.cur.p + y.start) = .ok start → memRead s (s.cur.p + y.size) = .ok size →
      memRead s (s.cur.p + y.flag) = .ok flag → memRead s (s.cur.p + y.demand) = .ok demand →
      locate s (b1 - 0o200) .write = .ok q1 → locate s (b1 - 0o177) .write = .ok q2 →
      locate s (b1 - 0o175) .write = .ok q3 → locate s (b1 - 0o176) .write = .ok q4 →
      Completes .init s (fun t => SetsAndStores s t
        { s.cur with
          b := b1
          p := s.cur.p + if stackOverflow s.params stp smax = true ∨ Config.initFlagError flag = true then y.errorReturn else y.normal }
        [(q1, s.cur.l + 1), (q2, s.cur.b), (q3, smax), (q4, BitVec.ofNat 16 stp)])) ∧
    (s.params.initModelled = false → exec .init s = .refused (.unmodelledInstruction "INIT"))

/-- `LEAVE` (R414): P from LINK, B from PREVB of the old frame. `ELEAV` (R415): the same with LINK decremented first, and A in the
caller's ERRCODE. -/
def Obligations.StackFrameExit : Prop :=
  ∀ (s : State) (link prevb : Word),
    memRead s (s.cur.b - 0o200) = .ok link → memRead s (s.cur.b - 0o177) = .ok prevb →
    Completes .leave s (fun t => SetsRegisters s t { s.cur with p := link, b := prevb }) ∧
    (∀ q1 q2, s.mem.wf = true → locate s (s.cur.b - 0o200) .write = .ok q1 →
      locate s (prevb - 0o173) .write = .ok q2 → Completes .eleav s (fun t =>
        SetsAndStores s t { s.cur with p := link - 1, b := prevb } [(q1, link - 1), (q2, s.cur.a)]))

/-- `FAD`, `FSB`, `FMU`, `FDV` apply the spec's parameter functions to the accumulator and the operand and set Z on an error (R420,
R423 to R426; log 13); `NLZ` and `DNZ` apply theirs (R262, R263), `DNZ` gives 0 on underflow, clears D and, in the 48-bit
format, leaves T open (log 7). -/
def Obligations.FloatingPoint : Prop :=
  ∀ (m : MemOperand) (scale : Byte) (s : State),
    FloatingStep (.fad m) Config.fAdd s m ∧ FloatingStep (.fsb m) Config.fSub s m ∧
    FloatingStep (.fmu m) Config.fMul s m ∧ FloatingStep (.fdv m) divideOp s m ∧
    Completes (.nlz scale) s (fun t =>
      let r := Config.nlz48 s.cur.a scale
      let q := Config.nlz32 s.cur.a scale
      SetsRegisters s t (if s.params.float48 then { s.cur with p := s.cur.p + 1, t := r.t, a := r.a, d := r.d }
        else { s.cur with p := s.cur.p + 1, a := q.1, d := q.2 })) ∧
    Completes (.dnz scale) s (fun t =>
      let t0 : Word := if s.params.float48 then s.cur.t else 0
      let r := if Config.dnzUnderflow s.params.float48 t0 s.cur.a s.cur.d scale then (0, false)
        else Config.dnz s.params.float48 t0 s.cur.a s.cur.d scale
      SetsRegisters s t { s.cur with
        p := s.cur.p + 1, a := r.1, d := 0, t := if s.params.float48 then t.cur.t else s.cur.t
        sts := if r.2 then withZ s.cur.sts true else s.cur.sts })

/-- `VERSN` on the ND-110 (R430): the version words, the installation byte that A selects, bits 15-8 of D open (log 7); on the
ND-100 its word is illegal. `IOT` is illegal in every mode (R113, R267; the spec's decision D1). `GECO` has no behaviour in the source
(R431, R465; D26): the model refuses it. -/
def Obligations.VersionAndStops : Prop :=
  ∀ s : State,
    (s.params.cpuModel = .nd110 → Completes .versn s (fun t =>
      SetsRegisters s t { s.cur with p := s.cur.p + 1, a := Config.versionA, t := Config.versionT, d := t.cur.d } ∧
      t.cur.d.extractLsb' 0 8 = Config.installation (s.cur.a.extractLsb' 8 4))) ∧
    (s.params.cpuModel = .nd100 → exec .versn s = .fault (.illegalInstruction s.params.opcodes.versn)) ∧
    (∀ addr : BitVec 11, exec (.iot addr) s = .fault (.illegalInstruction (BitVec.ofNat 16 (0o160000 + addr.toNat)))) ∧
    exec .geco s = .refused (.unmodelledInstruction "GECO")

/-- `MOVEW` (R432; the spec's decision D53): L words, at most 2048, in ascending order, each read just before it is written, from
and to the words that `endWord` gives for the ends of the transfer type; the addresses advanced, a physical bank incremented
on overflow, L cleared. The first end that fails is the fault, before any change (R85). With memory management off and all words
installed every end is in reach. A greater L moves nothing and changes nothing (log 24). A type above 10₈ is illegal. -/
def Obligations.WordBlockMove : Prop :=
  ∀ (ty : BitVec 6) (s : State),
    let n := s.cur.l.toNat
    let fromPhysical := decide (6 ≤ ty.toNat)
    let toPhysical := decide (ty.toNat % 3 = 2)
    let legal : Prop := privOk s = true ∨ (fromPhysical = false ∧ toPhysical = false)
    let source (k : Nat) : Except Fault PhysAddr := endWord s (ty.toNat / 3) s.cur.a s.cur.d k .read
    let dest (k : Nat) : Except Fault PhysAddr := endWord s (ty.toNat % 3) s.cur.x s.cur.t k .write
    (∀ from' to' : Nat → PhysAddr, ty.toNat ≤ 8 → n ≤ 2048 → legal → s.mem.wf = true →
      (∀ k, k < n → source k = .ok (from' k) ∧ dest k = .ok (to' k)) → Completes (.movew ty) s (fun t =>
      SetsRegisters { s with mem := t.mem } t { s.cur with
        p := s.cur.p + 1, l := 0, d := s.cur.d + BitVec.ofNat 16 n, t := s.cur.t + BitVec.ofNat 16 n
        a := if fromPhysical ∧ 65536 ≤ s.cur.d.toNat + n then s.cur.a + 1 else s.cur.a
        x := if toPhysical ∧ 65536 ≤ s.cur.t.toNat + n then s.cur.x + 1 else s.cur.x } ∧
      ∃ words : Nat → PhysAddr → Word,
        words 0 = s.mem.readWord ∧
        (∀ k, k < n → ∀ pa, words (k + 1) pa = if pa = to' k then words k (from' k) else words k pa) ∧
        HoldsWords s t (words n))) ∧
    (∀ k f, ty.toNat ≤ 8 → n ≤ 2048 → legal → k < n →
      (∀ j, j < k → (∃ pa, source j = .ok pa) ∧ ∃ pa, dest j = .ok pa) →
      source k = .error f ∨ (∃ pa, source k = .ok pa) ∧ dest k = .error f →
      exec (.movew ty) s = .fault f) ∧
    (AllReady s → ty.toNat ≤ 8 → ∀ k, source k = .ok (moveAddr fromPhysical s.cur.a s.cur.d k) ∧
      dest k = .ok (moveAddr toPhysical s.cur.x s.cur.t k)) ∧
    (ty.toNat ≤ 8 → 2048 < n → legal →
      Completes (.movew ty) s (fun t => SetsRegisters s t { s.cur with p := s.cur.p + 1 })) ∧
    (8 < ty.toNat → exec (.movew ty) s = .fault (.illegalInstruction (encode s.params.opcodes (.movew ty))))

/-- `EXR` (R260; the spec's decisions D15, D16): the instruction in the register runs by its own rule with P at the `EXR`; a word
that is itself an `EXR` sets Z and does nothing else; the register is read once, as `EXR` of `SAA` into its own register shows. -/
def Obligations.ExecuteRegister : Prop :=
  ∀ (sr dr : RegField) (s : State), sr ≠ .code0 → sr ≠ .p →
    (∀ i : Instr, decodeWord s.params.opcodes (s.cur.operand sr) = .ok i → (∀ r1 r2, i ≠ .exr r1 r2) →
      exec (.exr sr dr) s = exec i s) ∧
    (∀ r1 r2, decodeWord s.params.opcodes (s.cur.operand sr) = .ok (.exr r1 r2) → Completes (.exr sr dr) s (fun t =>
      SetsRegisters s t { s.cur with p := s.cur.p + 1, sts := withZ s.cur.sts true })) ∧
    (∀ arg : Byte, (s.cur.operand sr).toNat = 0o170400 + arg.toNat → Completes (.exr sr dr) s (fun t =>
      SetsRegisters s t { s.cur with p := s.cur.p + 1, a := arg.signExtend 16 }))
end

