-- ==== Sys2Proof/Laws/Decode.lean ====
section
/-! SUPPORT. What a word decodes to, once for fixed and once for open opcodes, and the small lemmas of the encoding fields: what
a field of a word built from fields reads as. Each `@[simp]` lemma takes a field selector of Decode.lean off the appended word
of the encoder. -/

namespace Sys2Proof

/-! ## Open opcodes -/

/-- A word is looked up as what it stands for, where no word stands twice. -/
theorem lookup_of_mem {w : Word} {i : Instr} {l : List (Word × Instr)} (hn : (l.map Prod.fst).Nodup) (hm : (w, i) ∈ l) :
    l.lookup w = some i := by
  induction l with
  | nil => cases hm
  | cons e l ih =>
    obtain ⟨v, j⟩ := e
    simp only [List.map_cons, List.nodup_cons] at hn
    rcases List.mem_cons.mp hm with h | h
    · cases h; simp [List.lookup]
    · have hne : w ≠ v := fun hv => hn.1 (hv ▸ List.mem_map_of_mem (f := Prod.fst) h)
      simp [List.lookup, beq_eq_false_iff_ne.mpr hne, ih hn.2 h]

theorem mem_of_lookup {w : Word} {i : Instr} {l : List (Word × Instr)} (h : l.lookup w = some i) : (w, i) ∈ l := by
  induction l with
  | nil => cases h
  | cons e l ih =>
    obtain ⟨v, j⟩ := e
    simp only [List.lookup] at h
    split at h
    · next hv => cases h; simp [eq_of_beq hv]
    · exact List.mem_cons_of_mem _ (ih h)

/-- A word of a fixed opcode decodes as it does without the open ones. -/
theorem decodeWord_fixed {o : Opcodes} {w : Word} {i : Instr} (h : decodeFixed w = .ok i) : decodeWord o w = .ok i := by
  simp [decodeWord, h]

/-- A word of an open opcode decodes to its instruction. -/
theorem decodeWord_open {o : Opcodes} {w : Word} {i : Instr} (ho : o.wf = true) (hm : (w, i) ∈ o.table) :
    decodeWord o w = .ok i := by
  simp only [Opcodes.wf, Bool.and_eq_true, decide_eq_true_eq, List.all_eq_true] at ho
  have hf := ho.2 _ hm
  unfold decodeWord
  split
  · next h => simp [h, Except.isOk, Except.toBool] at hf
  · simp [lookup_of_mem ho.1 hm]

/-- What a word can decode to. -/
theorem decodeWord_ok {o : Opcodes} {w : Word} {i : Instr} (h : decodeWord o w = .ok i) :
    decodeFixed w = .ok i ∨ (w, i) ∈ o.table := by
  unfold decodeWord at h
  split at h
  · next hf => cases h; exact .inl hf
  · split at h
    · next hl => cases h; exact .inr (mem_of_lookup hl)
    · cases h

theorem mem_deltaFamily {base : Word} {i : BitVec 3 → Instr} {w : Word} {j : Instr} :
    (w, j) ∈ deltaFamily base i ↔ ∃ k, w = offsetWord base k ∧ j = i k := by
  simp only [deltaFamily, List.mem_map, List.mem_range, Prod.mk.injEq]
  constructor
  · rintro ⟨k, -, rfl, rfl⟩
    exact ⟨_, rfl, rfl⟩
  · rintro ⟨k, rfl, rfl⟩
    exact ⟨k.toNat, k.isLt, by simp, by simp⟩

theorem mem_levelFamily {base : Word} {w : Word} {j : Instr} :
    (w, j) ∈ levelFamily base ↔ ∃ k, w = offsetWord base k ∧ j = .srb k := by
  simp only [levelFamily, List.mem_map, List.mem_range, Prod.mk.injEq]
  constructor
  · rintro ⟨k, -, rfl, rfl⟩
    exact ⟨_, rfl, rfl⟩
  · rintro ⟨k, rfl, rfl⟩
    exact ⟨k.toNat, k.isLt, by simp, by simp⟩

/-! ## Fields of appended vectors, at any widths -/

theorem append_high {m n : Nat} (a : BitVec m) (b : BitVec n) : (a ++ b).extractLsb' n m = a := by
  ext i hi
  simp [BitVec.getLsbD_append, BitVec.getLsbD_eq_getElem hi]

theorem append_low {m n : Nat} (a : BitVec m) (b : BitVec n) : (a ++ b).extractLsb' 0 n = b := by
  ext i hi
  simp [BitVec.getLsbD_append, hi]

/-- A field that starts at the low end of the upper part. -/
theorem append_upper {m n : Nat} (a : BitVec m) (b : BitVec n) (k w : Nat) :
    (a ++ b).extractLsb' (n + k) w = a.extractLsb' k w := by
  ext i hi
  simp only [BitVec.getElem_extractLsb', BitVec.getLsbD_append]
  rw [if_neg (by omega)]
  congr 1
  omega

/-- A field inside the lower part. -/
theorem append_lower {m n : Nat} (a : BitVec m) (b : BitVec n) (k w : Nat) (h : k + w ≤ n) :
    (a ++ b).extractLsb' k w = b.extractLsb' k w := by
  ext i hi
  simp only [BitVec.getElem_extractLsb', BitVec.getLsbD_append]
  rw [if_pos (by omega)]

theorem append_upper_bit {m n : Nat} (a : BitVec m) (b : BitVec n) (k : Nat) :
    (a ++ b).getLsbD (n + k) = a.getLsbD k := by
  rw [BitVec.getLsbD_append, if_neg (by omega)]
  congr 1
  omega

theorem append_lower_bit {m n : Nat} (a : BitVec m) (b : BitVec n) (k : Nat) (h : k < n) :
    (a ++ b).getLsbD k = b.getLsbD k := by
  rw [BitVec.getLsbD_append, if_pos h]

/-- A vector is its upper and lower part. -/
theorem append_parts {m n : Nat} (w : BitVec (m + n)) : w.extractLsb' n m ++ w.extractLsb' 0 n = w := by
  ext i hi
  simp only [BitVec.getElem_append, BitVec.getElem_extractLsb']
  split
  · simp [BitVec.getLsbD_eq_getElem hi]
  · rw [show n + (i - n) = i by omega, BitVec.getLsbD_eq_getElem hi]

/-! ## Register, condition and shift codes -/

@[simp] theorem RegField.ofBits_bits (r : RegField) : RegField.ofBits r.bits = r := by cases r <;> rfl

@[simp] theorem SkipCond.ofBits_bits (c : SkipCond) : SkipCond.ofBits c.bits = c := by cases c <;> rfl

@[simp] theorem ShiftType.ofBits_bits (t : ShiftType) : ShiftType.ofBits t.bits = t := by cases t <;> rfl

@[simp] theorem RegField.bits_ofBits (c : BitVec 3) : (RegField.ofBits c).bits = c := by revert c; decide

@[simp] theorem SkipCond.bits_ofBits (c : BitVec 3) : (SkipCond.ofBits c).bits = c := by revert c; decide

@[simp] theorem ShiftType.bits_ofBits (c : BitVec 2) : (ShiftType.ofBits c).bits = c := by revert c; decide

@[simp] theorem MemOperand.ofBits_bits (m : MemOperand) : MemOperand.ofBits m.bits = m := by
  obtain ⟨x, i, b, d⟩ := m
  have hd : ((BitVec.ofBool x ++ (BitVec.ofBool i ++ BitVec.ofBool b)) ++ d).extractLsb' 0 8 = d := append_low _ d
  have hx : ((BitVec.ofBool x ++ (BitVec.ofBool i ++ BitVec.ofBool b)) ++ d).getLsbD 10 = x :=
    (append_upper_bit _ d 2).trans (by cases x <;> cases i <;> cases b <;> rfl)
  have hi : ((BitVec.ofBool x ++ (BitVec.ofBool i ++ BitVec.ofBool b)) ++ d).getLsbD 9 = i :=
    (append_upper_bit _ d 1).trans (by cases x <;> cases i <;> cases b <;> rfl)
  have hb : ((BitVec.ofBool x ++ (BitVec.ofBool i ++ BitVec.ofBool b)) ++ d).getLsbD 8 = b :=
    (append_upper_bit _ d 0).trans (by cases x <;> cases i <;> cases b <;> rfl)
  simp only [MemOperand.ofBits, MemOperand.bits]
  congr

/-! ## Selectors on the encoder's words -/

@[simp] theorem opOf_append (op : BitVec 5) (r : BitVec 11) : opOf (op ++ r) = op := append_high op r

@[simp] theorem restOf_append (op : BitVec 5) (r : BitVec 11) : restOf (op ++ r) = r := append_low op r

@[simp] theorem sub3_append (s : BitVec 3) (n : Byte) : sub3 (s ++ n) = s := append_high s n

@[simp] theorem low8_append (s : BitVec 3) (n : Byte) : low8 (s ++ n) = n := append_low s n

@[simp] theorem key5_append (k : BitVec 5) (r : BitVec 6) : key5 (k ++ r) = k := append_high k r

@[simp] theorem low6_append (k : BitVec 5) (r : BitVec 6) : low6 (k ++ r) = r := append_low k r

@[simp] theorem mid3_pair (a b : BitVec 3) : mid3 (pair33 a b) = a := append_high a b

@[simp] theorem low3_pair (a b : BitVec 3) : low3 (pair33 a b) = b := append_low a b

@[simp] theorem srOf_pair (sr : RegField) (lo : BitVec 3) : srOf (pair33 sr.bits lo) = sr := by simp [srOf]

@[simp] theorem drOf_pair (hi : BitVec 3) (dr : RegField) : drOf (pair33 hi dr.bits) = dr := by simp [drOf]

@[simp] theorem high4_append (g n : BitVec 4) : high4 (g ++ n) = g := append_high g n

@[simp] theorem low4_append (g n : BitVec 4) : low4 (g ++ n) = n := append_low g n

@[simp] theorem bit7_append (b : BitVec 1) (l : BitVec 4) (t : BitVec 3) : bit7 (b ++ (l ++ t)) = b :=
  append_high b (l ++ t)

@[simp] theorem type3_append (b : BitVec 1) (l : BitVec 4) (t : BitVec 3) : type3 (b ++ (l ++ t)) = t :=
  (append_lower b (l ++ t) 0 3 (by decide)).trans (append_low l t)

@[simp] theorem levelOf_append (b : BitVec 1) (l : BitVec 4) (t : BitVec 3) : levelOf (b ++ (l ++ t)) = l :=
  (append_lower b (l ++ t) 3 4 (by decide)).trans (append_high l t)

/-- Bits 10-9 of a shift word's rest. -/
@[simp] theorem shiftType_append (t r : BitVec 2) (z : BitVec 1) (n : BitVec 6) :
    ((t ++ (r ++ z)) ++ n : BitVec 11).extractLsb' 9 2 = t :=
  (append_upper (t ++ (r ++ z)) n 3 2).trans (append_high t (r ++ z))

/-- Bits 8-6 of a shift word's rest. -/
@[simp] theorem shiftReg_append (t r : BitVec 2) (z : BitVec 1) (n : BitVec 6) :
    ((t ++ (r ++ z)) ++ n : BitVec 11).extractLsb' 6 3 = r ++ z :=
  (append_upper (t ++ (r ++ z)) n 0 3).trans (append_low t (r ++ z))

@[simp] theorem bitType_append (t bn : BitVec 4) (d : BitVec 3) :
    (t ++ (bn ++ d) : BitVec 11).extractLsb' 7 4 = t := append_high t (bn ++ d)

@[simp] theorem bitNumber_append (t bn : BitVec 4) (d : BitVec 3) :
    levelOf (low8 (t ++ (bn ++ d) : BitVec 11)) = bn := by
  have h : levelOf (low8 (t ++ (bn ++ d) : BitVec 11)) = (t ++ (bn ++ d) : BitVec (4 + (4 + 3))).extractLsb' 3 4 := by
    ext i hi
    simp [levelOf, low8]
  exact h.trans ((append_lower t (bn ++ d) 3 4 (by decide)).trans (append_high bn d))

@[simp] theorem bitReg_append (t bn : BitVec 4) (d : BitVec 3) :
    type3 (low8 (t ++ (bn ++ d) : BitVec 11)) = d := by
  have h : type3 (low8 (t ++ (bn ++ d) : BitVec 11)) = (t ++ (bn ++ d) : BitVec (4 + (4 + 3))).extractLsb' 0 3 := by
    ext i hi
    simp [type3, low8]
  exact h.trans ((append_lower t (bn ++ d) 0 3 (by decide)).trans (append_low bn d))

end Sys2Proof
end

