-- ==== Sys2Proof/Laws/State.lean ====
section
/-! SUPPORT. The small lemmas of State and Regs: one per field and update, true by unfolding, so that no later proof unfolds a
record update. -/

namespace Sys2Proof.Machine

/-! ## Fields after an update -/

@[simp] theorem State.setLv_pil (s : State) (n : Level) (r : Regs) : (s.setLv n r).pil = s.pil := rfl
@[simp] theorem State.setLv_pid (s : State) (n : Level) (r : Regs) : (s.setLv n r).pid = s.pid := rfl
@[simp] theorem State.setLv_pie (s : State) (n : Level) (r : Regs) : (s.setLv n r).pie = s.pie := rfl
@[simp] theorem State.setLv_ioni (s : State) (n : Level) (r : Regs) : (s.setLv n r).ioni = s.ioni := rfl
@[simp] theorem State.setLv_poni (s : State) (n : Level) (r : Regs) : (s.setLv n r).poni = s.poni := rfl
@[simp] theorem State.setLv_sexi (s : State) (n : Level) (r : Regs) : (s.setLv n r).sexi = s.sexi := rfl
@[simp] theorem State.setLv_pcr (s : State) (n : Level) (r : Regs) : (s.setLv n r).pcr = s.pcr := rfl
@[simp] theorem State.setLv_iie (s : State) (n : Level) (r : Regs) : (s.setLv n r).iie = s.iie := rfl
@[simp] theorem State.setLv_stbnk (s : State) (n : Level) (r : Regs) : (s.setLv n r).stbnk = s.stbnk := rfl
@[simp] theorem State.setLv_stsrt (s : State) (n : Level) (r : Regs) : (s.setLv n r).stsrt = s.stsrt := rfl
@[simp] theorem State.setLv_cmbnk (s : State) (n : Level) (r : Regs) : (s.setLv n r).cmbnk = s.cmbnk := rfl
@[simp] theorem State.setLv_mem (s : State) (n : Level) (r : Regs) : (s.setLv n r).mem = s.mem := rfl
@[simp] theorem State.setLv_run (s : State) (n : Level) (r : Regs) : (s.setLv n r).run = s.run := rfl
@[simp] theorem State.setLv_ioTrace (s : State) (n : Level) (r : Regs) : (s.setLv n r).ioTrace = s.ioTrace := rfl
@[simp] theorem State.setLv_gaps (s : State) (n : Level) (r : Regs) : (s.setLv n r).gaps = s.gaps := rfl
@[simp] theorem State.setLv_draws (s : State) (n : Level) (r : Regs) : (s.setLv n r).draws = s.draws := rfl
@[simp] theorem State.setLv_params (s : State) (n : Level) (r : Regs) : (s.setLv n r).params = s.params := rfl

@[simp] theorem State.setCur_pil (s : State) (r : Regs) : (s.setCur r).pil = s.pil := rfl
@[simp] theorem State.setCur_pid (s : State) (r : Regs) : (s.setCur r).pid = s.pid := rfl
@[simp] theorem State.setCur_pie (s : State) (r : Regs) : (s.setCur r).pie = s.pie := rfl
@[simp] theorem State.setCur_ioni (s : State) (r : Regs) : (s.setCur r).ioni = s.ioni := rfl
@[simp] theorem State.setCur_poni (s : State) (r : Regs) : (s.setCur r).poni = s.poni := rfl
@[simp] theorem State.setCur_sexi (s : State) (r : Regs) : (s.setCur r).sexi = s.sexi := rfl
@[simp] theorem State.setCur_pcr (s : State) (r : Regs) : (s.setCur r).pcr = s.pcr := rfl
@[simp] theorem State.setCur_iie (s : State) (r : Regs) : (s.setCur r).iie = s.iie := rfl
@[simp] theorem State.setCur_stbnk (s : State) (r : Regs) : (s.setCur r).stbnk = s.stbnk := rfl
@[simp] theorem State.setCur_stsrt (s : State) (r : Regs) : (s.setCur r).stsrt = s.stsrt := rfl
@[simp] theorem State.setCur_cmbnk (s : State) (r : Regs) : (s.setCur r).cmbnk = s.cmbnk := rfl
@[simp] theorem State.setCur_mem (s : State) (r : Regs) : (s.setCur r).mem = s.mem := rfl
@[simp] theorem State.setCur_run (s : State) (r : Regs) : (s.setCur r).run = s.run := rfl
@[simp] theorem State.setCur_ioTrace (s : State) (r : Regs) : (s.setCur r).ioTrace = s.ioTrace := rfl
@[simp] theorem State.setCur_gaps (s : State) (r : Regs) : (s.setCur r).gaps = s.gaps := rfl
@[simp] theorem State.setCur_draws (s : State) (r : Regs) : (s.setCur r).draws = s.draws := rfl
@[simp] theorem State.setCur_params (s : State) (r : Regs) : (s.setCur r).params = s.params := rfl

@[simp] theorem State.advance_pil (s : State) : (s.advance).pil = s.pil := rfl
@[simp] theorem State.advance_pid (s : State) : (s.advance).pid = s.pid := rfl
@[simp] theorem State.advance_pie (s : State) : (s.advance).pie = s.pie := rfl
@[simp] theorem State.advance_ioni (s : State) : (s.advance).ioni = s.ioni := rfl
@[simp] theorem State.advance_poni (s : State) : (s.advance).poni = s.poni := rfl
@[simp] theorem State.advance_sexi (s : State) : (s.advance).sexi = s.sexi := rfl
@[simp] theorem State.advance_pcr (s : State) : (s.advance).pcr = s.pcr := rfl
@[simp] theorem State.advance_iie (s : State) : (s.advance).iie = s.iie := rfl
@[simp] theorem State.advance_stbnk (s : State) : (s.advance).stbnk = s.stbnk := rfl
@[simp] theorem State.advance_stsrt (s : State) : (s.advance).stsrt = s.stsrt := rfl
@[simp] theorem State.advance_cmbnk (s : State) : (s.advance).cmbnk = s.cmbnk := rfl
@[simp] theorem State.advance_mem (s : State) : (s.advance).mem = s.mem := rfl
@[simp] theorem State.advance_run (s : State) : (s.advance).run = s.run := rfl
@[simp] theorem State.advance_ioTrace (s : State) : (s.advance).ioTrace = s.ioTrace := rfl
@[simp] theorem State.advance_gaps (s : State) : (s.advance).gaps = s.gaps := rfl
@[simp] theorem State.advance_draws (s : State) : (s.advance).draws = s.draws := rfl
@[simp] theorem State.advance_params (s : State) : (s.advance).params = s.params := rfl

@[simp] theorem State.drawn_regs (s : State) (n : Nat) : (s.drawn n).regs = s.regs := rfl
@[simp] theorem State.drawn_pil (s : State) (n : Nat) : (s.drawn n).pil = s.pil := rfl
@[simp] theorem State.drawn_pid (s : State) (n : Nat) : (s.drawn n).pid = s.pid := rfl
@[simp] theorem State.drawn_pie (s : State) (n : Nat) : (s.drawn n).pie = s.pie := rfl
@[simp] theorem State.drawn_ioni (s : State) (n : Nat) : (s.drawn n).ioni = s.ioni := rfl
@[simp] theorem State.drawn_poni (s : State) (n : Nat) : (s.drawn n).poni = s.poni := rfl
@[simp] theorem State.drawn_sexi (s : State) (n : Nat) : (s.drawn n).sexi = s.sexi := rfl
@[simp] theorem State.drawn_pcr (s : State) (n : Nat) : (s.drawn n).pcr = s.pcr := rfl
@[simp] theorem State.drawn_iie (s : State) (n : Nat) : (s.drawn n).iie = s.iie := rfl
@[simp] theorem State.drawn_stbnk (s : State) (n : Nat) : (s.drawn n).stbnk = s.stbnk := rfl
@[simp] theorem State.drawn_stsrt (s : State) (n : Nat) : (s.drawn n).stsrt = s.stsrt := rfl
@[simp] theorem State.drawn_cmbnk (s : State) (n : Nat) : (s.drawn n).cmbnk = s.cmbnk := rfl
@[simp] theorem State.drawn_mem (s : State) (n : Nat) : (s.drawn n).mem = s.mem := rfl
@[simp] theorem State.drawn_run (s : State) (n : Nat) : (s.drawn n).run = s.run := rfl
@[simp] theorem State.drawn_ioTrace (s : State) (n : Nat) : (s.drawn n).ioTrace = s.ioTrace := rfl
@[simp] theorem State.drawn_gaps (s : State) (n : Nat) : (s.drawn n).gaps = s.gaps := rfl
@[simp] theorem State.drawn_params (s : State) (n : Nat) : (s.drawn n).params = s.params := rfl

@[simp] theorem State.physWrite_regs (s : State) (pa : PhysAddr) (v : Word) : (s.physWrite pa v).regs = s.regs := rfl
@[simp] theorem State.physWrite_pil (s : State) (pa : PhysAddr) (v : Word) : (s.physWrite pa v).pil = s.pil := rfl
@[simp] theorem State.physWrite_pid (s : State) (pa : PhysAddr) (v : Word) : (s.physWrite pa v).pid = s.pid := rfl
@[simp] theorem State.physWrite_pie (s : State) (pa : PhysAddr) (v : Word) : (s.physWrite pa v).pie = s.pie := rfl
@[simp] theorem State.physWrite_ioni (s : State) (pa : PhysAddr) (v : Word) : (s.physWrite pa v).ioni = s.ioni := rfl
@[simp] theorem State.physWrite_poni (s : State) (pa : PhysAddr) (v : Word) : (s.physWrite pa v).poni = s.poni := rfl
@[simp] theorem State.physWrite_sexi (s : State) (pa : PhysAddr) (v : Word) : (s.physWrite pa v).sexi = s.sexi := rfl
@[simp] theorem State.physWrite_pcr (s : State) (pa : PhysAddr) (v : Word) : (s.physWrite pa v).pcr = s.pcr := rfl
@[simp] theorem State.physWrite_iie (s : State) (pa : PhysAddr) (v : Word) : (s.physWrite pa v).iie = s.iie := rfl
@[simp] theorem State.physWrite_stbnk (s : State) (pa : PhysAddr) (v : Word) : (s.physWrite pa v).stbnk = s.stbnk := rfl
@[simp] theorem State.physWrite_stsrt (s : State) (pa : PhysAddr) (v : Word) : (s.physWrite pa v).stsrt = s.stsrt := rfl
@[simp] theorem State.physWrite_cmbnk (s : State) (pa : PhysAddr) (v : Word) : (s.physWrite pa v).cmbnk = s.cmbnk := rfl
@[simp] theorem State.physWrite_run (s : State) (pa : PhysAddr) (v : Word) : (s.physWrite pa v).run = s.run := rfl
@[simp] theorem State.physWrite_ioTrace (s : State) (pa : PhysAddr) (v : Word) : (s.physWrite pa v).ioTrace = s.ioTrace := rfl
@[simp] theorem State.physWrite_gaps (s : State) (pa : PhysAddr) (v : Word) : (s.physWrite pa v).gaps = s.gaps := rfl
@[simp] theorem State.physWrite_draws (s : State) (pa : PhysAddr) (v : Word) : (s.physWrite pa v).draws = s.draws := rfl
@[simp] theorem State.physWrite_params (s : State) (pa : PhysAddr) (v : Word) : (s.physWrite pa v).params = s.params := rfl

@[simp] theorem State.traced_regs (s : State) (e : IoEvent) : (s.traced e).regs = s.regs := rfl
@[simp] theorem State.traced_pil (s : State) (e : IoEvent) : (s.traced e).pil = s.pil := rfl
@[simp] theorem State.traced_pid (s : State) (e : IoEvent) : (s.traced e).pid = s.pid := rfl
@[simp] theorem State.traced_pie (s : State) (e : IoEvent) : (s.traced e).pie = s.pie := rfl
@[simp] theorem State.traced_ioni (s : State) (e : IoEvent) : (s.traced e).ioni = s.ioni := rfl
@[simp] theorem State.traced_poni (s : State) (e : IoEvent) : (s.traced e).poni = s.poni := rfl
@[simp] theorem State.traced_sexi (s : State) (e : IoEvent) : (s.traced e).sexi = s.sexi := rfl
@[simp] theorem State.traced_pcr (s : State) (e : IoEvent) : (s.traced e).pcr = s.pcr := rfl
@[simp] theorem State.traced_iie (s : State) (e : IoEvent) : (s.traced e).iie = s.iie := rfl
@[simp] theorem State.traced_stbnk (s : State) (e : IoEvent) : (s.traced e).stbnk = s.stbnk := rfl
@[simp] theorem State.traced_stsrt (s : State) (e : IoEvent) : (s.traced e).stsrt = s.stsrt := rfl
@[simp] theorem State.traced_cmbnk (s : State) (e : IoEvent) : (s.traced e).cmbnk = s.cmbnk := rfl
@[simp] theorem State.traced_mem (s : State) (e : IoEvent) : (s.traced e).mem = s.mem := rfl
@[simp] theorem State.traced_run (s : State) (e : IoEvent) : (s.traced e).run = s.run := rfl
@[simp] theorem State.traced_gaps (s : State) (e : IoEvent) : (s.traced e).gaps = s.gaps := rfl
@[simp] theorem State.traced_draws (s : State) (e : IoEvent) : (s.traced e).draws = s.draws := rfl
@[simp] theorem State.traced_params (s : State) (e : IoEvent) : (s.traced e).params = s.params := rfl

@[simp] theorem State.drawn_draws (s : State) (n : Nat) : (s.drawn n).draws = s.draws + n := rfl
@[simp] theorem State.traced_ioTrace (s : State) (e : IoEvent) : (s.traced e).ioTrace = s.ioTrace ++ [e] := rfl
@[simp] theorem State.physWrite_mem (s : State) (pa : PhysAddr) (v : Word) :
    (s.physWrite pa v).mem = s.mem.writeWord pa v := rfl

/-! ## Levels -/

@[simp] theorem State.setLv_lv_same (s : State) (n : Level) (r : Regs) : (s.setLv n r).lv n = r := by
  simp [State.lv, State.setLv]

theorem State.setLv_lv_ne (s : State) (n k : Level) (r : Regs) (h : k ≠ n) : (s.setLv n r).lv k = s.lv k := by
  simp only [State.lv, State.setLv]
  exact Vector.getElem_set_ne _ _ fun e => h (BitVec.eq_of_toNat_eq e.symm)

@[simp] theorem State.setLv_setLv (s : State) (n : Level) (r q : Regs) : (s.setLv n r).setLv n q = s.setLv n q := by
  simp [State.setLv, Vector.set_set]

@[simp] theorem State.setCur_cur (s : State) (r : Regs) : (s.setCur r).cur = r := State.setLv_lv_same s s.pil r

@[simp] theorem State.setCur_setCur (s : State) (r q : Regs) : (s.setCur r).setCur q = s.setCur q :=
  State.setLv_setLv s s.pil r q

theorem State.setCur_lv_ne (s : State) (k : Level) (r : Regs) (h : k ≠ s.pil) : (s.setCur r).lv k = s.lv k :=
  State.setLv_lv_ne s s.pil k r h

theorem State.setLv_cur_ne (s : State) (n : Level) (r : Regs) (h : n ≠ s.pil) : (s.setLv n r).cur = s.cur :=
  State.setLv_lv_ne s n s.pil r (Ne.symm h)

theorem State.setLv_pil_cur (s : State) (r : Regs) : (s.setLv s.pil r).cur = r := State.setLv_lv_same s s.pil r

@[simp] theorem State.advance_cur (s : State) : s.advance.cur = s.cur.step := State.setCur_cur s s.cur.step

theorem State.advance_lv_ne (s : State) (k : Level) (h : k ≠ s.pil) : s.advance.lv k = s.lv k :=
  State.setCur_lv_ne s k s.cur.step h

@[simp] theorem State.physWrite_lv (s : State) (pa : PhysAddr) (v : Word) (n : Level) : (s.physWrite pa v).lv n = s.lv n := rfl

@[simp] theorem State.physWrite_cur (s : State) (pa : PhysAddr) (v : Word) : (s.physWrite pa v).cur = s.cur := rfl

@[simp] theorem State.drawn_lv (s : State) (k : Nat) (n : Level) : (s.drawn k).lv n = s.lv n := rfl

@[simp] theorem State.drawn_cur (s : State) (k : Nat) : (s.drawn k).cur = s.cur := rfl

@[simp] theorem State.traced_lv (s : State) (e : IoEvent) (n : Level) : (s.traced e).lv n = s.lv n := rfl

@[simp] theorem State.traced_cur (s : State) (e : IoEvent) : (s.traced e).cur = s.cur := rfl

/-! ## Register sets -/

@[simp] theorem Regs.step_sts (r : Regs) : r.step.sts = r.sts := rfl
@[simp] theorem Regs.step_d (r : Regs) : r.step.d = r.d := rfl
@[simp] theorem Regs.step_b (r : Regs) : r.step.b = r.b := rfl
@[simp] theorem Regs.step_l (r : Regs) : r.step.l = r.l := rfl
@[simp] theorem Regs.step_a (r : Regs) : r.step.a = r.a := rfl
@[simp] theorem Regs.step_t (r : Regs) : r.step.t = r.t := rfl
@[simp] theorem Regs.step_x (r : Regs) : r.step.x = r.x := rfl
@[simp] theorem Regs.step_p (r : Regs) : r.step.p = r.p + 1 := rfl
@[simp] theorem Regs.skip_sts (r : Regs) : r.skip.sts = r.sts := rfl
@[simp] theorem Regs.skip_d (r : Regs) : r.skip.d = r.d := rfl
@[simp] theorem Regs.skip_b (r : Regs) : r.skip.b = r.b := rfl
@[simp] theorem Regs.skip_l (r : Regs) : r.skip.l = r.l := rfl
@[simp] theorem Regs.skip_a (r : Regs) : r.skip.a = r.a := rfl
@[simp] theorem Regs.skip_t (r : Regs) : r.skip.t = r.t := rfl
@[simp] theorem Regs.skip_x (r : Regs) : r.skip.x = r.x := rfl
@[simp] theorem Regs.skip_p (r : Regs) : r.skip.p = r.p + 2 := rfl
@[simp] theorem Regs.skipIf_sts (r : Regs) (c : Bool) : (r.skipIf c).sts = r.sts := by cases c <;> rfl
@[simp] theorem Regs.skipIf_d (r : Regs) (c : Bool) : (r.skipIf c).d = r.d := by cases c <;> rfl
@[simp] theorem Regs.skipIf_b (r : Regs) (c : Bool) : (r.skipIf c).b = r.b := by cases c <;> rfl
@[simp] theorem Regs.skipIf_l (r : Regs) (c : Bool) : (r.skipIf c).l = r.l := by cases c <;> rfl
@[simp] theorem Regs.skipIf_a (r : Regs) (c : Bool) : (r.skipIf c).a = r.a := by cases c <;> rfl
@[simp] theorem Regs.skipIf_t (r : Regs) (c : Bool) : (r.skipIf c).t = r.t := by cases c <;> rfl
@[simp] theorem Regs.skipIf_x (r : Regs) (c : Bool) : (r.skipIf c).x = r.x := by cases c <;> rfl
@[simp] theorem Regs.skipIf_p (r : Regs) (c : Bool) : (r.skipIf c).p = r.p + (if c then 2 else 1) := by cases c <;> rfl
@[simp] theorem Regs.setFlag_d (r : Regs) (g : Flag) (v : Bool) : (r.setFlag g v).d = r.d := rfl
@[simp] theorem Regs.setFlag_p (r : Regs) (g : Flag) (v : Bool) : (r.setFlag g v).p = r.p := rfl
@[simp] theorem Regs.setFlag_b (r : Regs) (g : Flag) (v : Bool) : (r.setFlag g v).b = r.b := rfl
@[simp] theorem Regs.setFlag_l (r : Regs) (g : Flag) (v : Bool) : (r.setFlag g v).l = r.l := rfl
@[simp] theorem Regs.setFlag_a (r : Regs) (g : Flag) (v : Bool) : (r.setFlag g v).a = r.a := rfl
@[simp] theorem Regs.setFlag_t (r : Regs) (g : Flag) (v : Bool) : (r.setFlag g v).t = r.t := rfl
@[simp] theorem Regs.setFlag_x (r : Regs) (g : Flag) (v : Bool) : (r.setFlag g v).x = r.x := rfl
@[simp] theorem Regs.setFlag_sts (r : Regs) (g : Flag) (v : Bool) : (r.setFlag g v).sts = setBitTo r.sts g.pos v := rfl
@[simp] theorem Regs.raiseFlag_d (r : Regs) (g : Flag) (c : Bool) : (r.raiseFlag g c).d = r.d := by cases c <;> rfl
@[simp] theorem Regs.raiseFlag_p (r : Regs) (g : Flag) (c : Bool) : (r.raiseFlag g c).p = r.p := by cases c <;> rfl
@[simp] theorem Regs.raiseFlag_b (r : Regs) (g : Flag) (c : Bool) : (r.raiseFlag g c).b = r.b := by cases c <;> rfl
@[simp] theorem Regs.raiseFlag_l (r : Regs) (g : Flag) (c : Bool) : (r.raiseFlag g c).l = r.l := by cases c <;> rfl
@[simp] theorem Regs.raiseFlag_a (r : Regs) (g : Flag) (c : Bool) : (r.raiseFlag g c).a = r.a := by cases c <;> rfl
@[simp] theorem Regs.raiseFlag_t (r : Regs) (g : Flag) (c : Bool) : (r.raiseFlag g c).t = r.t := by cases c <;> rfl
@[simp] theorem Regs.raiseFlag_x (r : Regs) (g : Flag) (c : Bool) : (r.raiseFlag g c).x = r.x := by cases c <;> rfl
@[simp] theorem Regs.setOverflow_d (r : Regs) (v : Bool) : (r.setOverflow v).d = r.d := by
  simp [Regs.setOverflow]
@[simp] theorem Regs.setOverflow_p (r : Regs) (v : Bool) : (r.setOverflow v).p = r.p := by
  simp [Regs.setOverflow]
@[simp] theorem Regs.setOverflow_b (r : Regs) (v : Bool) : (r.setOverflow v).b = r.b := by
  simp [Regs.setOverflow]
@[simp] theorem Regs.setOverflow_l (r : Regs) (v : Bool) : (r.setOverflow v).l = r.l := by
  simp [Regs.setOverflow]
@[simp] theorem Regs.setOverflow_a (r : Regs) (v : Bool) : (r.setOverflow v).a = r.a := by
  simp [Regs.setOverflow]
@[simp] theorem Regs.setOverflow_t (r : Regs) (v : Bool) : (r.setOverflow v).t = r.t := by
  simp [Regs.setOverflow]
@[simp] theorem Regs.setOverflow_x (r : Regs) (v : Bool) : (r.setOverflow v).x = r.x := by
  simp [Regs.setOverflow]
@[simp] theorem Regs.addFlags_d (r : Regs) (v : AdderResult) : (r.addFlags v).d = r.d := by
  simp [Regs.addFlags]
@[simp] theorem Regs.addFlags_p (r : Regs) (v : AdderResult) : (r.addFlags v).p = r.p := by
  simp [Regs.addFlags]
@[simp] theorem Regs.addFlags_b (r : Regs) (v : AdderResult) : (r.addFlags v).b = r.b := by
  simp [Regs.addFlags]
@[simp] theorem Regs.addFlags_l (r : Regs) (v : AdderResult) : (r.addFlags v).l = r.l := by
  simp [Regs.addFlags]
@[simp] theorem Regs.addFlags_a (r : Regs) (v : AdderResult) : (r.addFlags v).a = r.a := by
  simp [Regs.addFlags]
@[simp] theorem Regs.addFlags_t (r : Regs) (v : AdderResult) : (r.addFlags v).t = r.t := by
  simp [Regs.addFlags]
@[simp] theorem Regs.addFlags_x (r : Regs) (v : AdderResult) : (r.addFlags v).x = r.x := by
  simp [Regs.addFlags]

/-- A register other than the destination keeps its value. -/
theorem Regs.setDest_operand (r : Regs) (f g : RegField) (v : Word) (h : g ≠ .code0) :
    (r.setDest f v).operand g = if g = f then v else r.operand g := by
  cases f <;> cases g <;> first | exact absurd rfl h | rfl

@[simp] theorem Regs.setDest_sts (r : Regs) (f : RegField) (v : Word) : (r.setDest f v).sts = r.sts := by cases f <;> rfl

/-- Two register sets that agree on STS and on every register code are equal. -/
theorem Regs.ext_operand (r q : Regs) (hs : r.sts = q.sts) (h : ∀ f, f ≠ RegField.code0 → r.operand f = q.operand f) :
    r = q := by
  obtain ⟨_, _, _, _, _, _, _, _⟩ := r
  obtain ⟨_, _, _, _, _, _, _, _⟩ := q
  have hd := h .d (by decide)
  have hp := h .p (by decide)
  have hb := h .b (by decide)
  have hl := h .l (by decide)
  have ha := h .a (by decide)
  have ht := h .t (by decide)
  have hx := h .x (by decide)
  simp_all [Regs.operand]

end Sys2Proof.Machine
end

