-- ==== Sys2Proof/Laws/Flags.lean ====
section
/-! SUPPORT. Bits and flags: what `setBitTo` leaves, the adder and the comparison as arithmetic over numbers, and STS after
the flag operations. -/

namespace Sys2Proof.Machine

/-! ## One bit -/

theorem setBitTo_bit {n : Nat} (w : BitVec n) (i j : Nat) (v : Bool) (hj : j < n) :
    (setBitTo w i v).getLsbD j = if j = i then v else w.getLsbD j := by
  unfold setBitTo
  cases v
  · by_cases h : j = i
    · simp [BitVec.getLsbD_twoPow, h]
    · simp [h, hj]
  · by_cases h : j = i
    · subst h; simp [hj]
    · simp [h, Ne.symm h]

/-! ## STS after the flag operations -/

theorem addFlags_sts (r : Regs) (x : AdderResult) : (r.addFlags x).sts = addStatus r.sts x.carry x.ovf := by
  have key : ∀ (b : Byte) (c o : Bool),
      (if o then setBitTo (setBitTo (setBitTo b 6 c) 4 o) 5 true else setBitTo (setBitTo b 6 c) 4 o) = addStatus b c o := by
    decide
  rw [← key]
  cases h : x.ovf <;> simp [Regs.addFlags, Regs.setOverflow, Regs.raiseFlag, h, Flag.pos]

theorem setOverflow_sts (r : Regs) (o : Bool) : (r.setOverflow o).sts = addStatus r.sts (r.sts.getLsbD 6) o := by
  have key : ∀ (b : Byte) (o : Bool),
      (if o then setBitTo (setBitTo b 4 o) 5 true else setBitTo b 4 o) = addStatus b (b.getLsbD 6) o := by decide
  rw [← key]
  cases o <;> simp [Regs.setOverflow, Regs.raiseFlag, Flag.pos]

/-! ## The adder over numbers (R30) -/

theorem adder_carry (a b : Word) (cin : Bool) :
    (adder a b cin).carry = decide (65536 ≤ a.toNat + b.toNat + cin.toNat) := rfl

theorem adder_res (a b : Word) (cin : Bool) : (adder a b cin).res = a + b + BitVec.ofNat 16 cin.toNat := by
  apply BitVec.eq_of_toNat_eq
  simp [adder]

theorem toInt_eq_msb (a : Word) : a.toInt = if a.msb then (a.toNat : Int) - 65536 else a.toNat := by
  rw [BitVec.toInt_eq_msb_cond]
  rfl

theorem msb_eq_le (a : Word) : a.msb = decide (32768 ≤ a.toNat) := BitVec.msb_eq_decide a

/-- The overflow as a statement about the signed sum. -/
theorem adder_ovf (a b : Word) (cin : Bool) : (adder a b cin).ovf = outOfRange (a.toInt + b.toInt + cin.toNat) := by
  have ha := a.isLt
  have hb := b.isLt
  have hc : cin.toNat ≤ 1 := Bool.toNat_le cin
  have hr : (adder a b cin).res.toNat = (a.toNat + b.toNat + cin.toNat) % 65536 := by
    simp only [adder, BitVec.toNat_ofNat]
  have ho : (adder a b cin).ovf = ((a.msb == b.msb) && ((adder a b cin).res.msb != a.msb)) := rfl
  rw [ho, toInt_eq_msb, toInt_eq_msb, msb_eq_le, msb_eq_le, msb_eq_le, hr]
  unfold outOfRange
  rw [Bool.eq_iff_iff]
  by_cases h1 : 32768 ≤ a.toNat <;> by_cases h2 : 32768 ≤ b.toNat <;>
    simp [h1, h2] <;> omega

theorem compareWords_res (d s : Word) : (adder d (~~~ s) true).res = d - s := by
  rw [adder_res, BitVec.sub_eq_add_neg, BitVec.neg_eq_not_add, BitVec.add_assoc]
  rfl

/-- Equality and the two orders as the comparison of `SKP` decides them (R404). -/
theorem skipHolds_iff (cond : SkipCond) (d s : Word) :
    skipHolds cond (compareWords d s) = true ↔ skipRelation cond d s := by
  have hd := d.isLt
  have hs := s.isLt
  have hr : (d - s).toNat = (65536 - s.toNat + d.toNat) % 65536 := by rw [BitVec.toNat_sub]
  have hn : (~~~ s).toNat = 65535 - s.toNat := by rw [BitVec.toNat_not]
  have he : (d - s == 0#16) = true ↔ d = s := by rw [beq_iff_eq, BitVec.sub_eq_iff_eq_add, BitVec.zero_add]
  have hc : (adder d (~~~ s) true).carry = decide (s.toNat ≤ d.toNat) := by
    rw [adder_carry, hn]
    rw [Bool.eq_iff_iff]
    simp
    omega
  have hl : (((d - s).msb != ((d.msb != s.msb) && ((d - s).msb != d.msb))) = true) ↔ d.toInt < s.toInt := by
    rw [toInt_eq_msb, toInt_eq_msb, msb_eq_le, msb_eq_le, msb_eq_le, hr]
    by_cases h1 : 32768 ≤ d.toNat <;> by_cases h2 : 32768 ≤ s.toNat <;> simp [h1, h2] <;> omega
  have hbool : ∀ b : Bool, ((!b) = true) ↔ ¬ (b = true) := by decide
  cases cond <;> simp only [skipHolds, compareWords, skipRelation, compareWords_res, hc, hbool, hl, decide_eq_true_eq]
  case eql => exact he
  case ueq => exact not_congr he
  case geq => simp
  case gre => omega
  case mlst => omega

end Sys2Proof.Machine
end

