-- ==== Sys2Proof/Laws/Memory.lean ====
section
/-! SUPPORT. Memory: every operation keeps the canonical form, a read after a write gives the value written, a write leaves
every other byte alone, and the form is unique. -/

namespace Sys2Proof.Machine

/-! ## Bytes of a word -/

@[simp] theorem leftByte_joinBytes (l r : Byte) : leftByte (joinBytes l r) = l := append_high l r

@[simp] theorem rightByte_joinBytes (l r : Byte) : rightByte (joinBytes l r) = r := append_low l r

@[simp] theorem joinBytes_left_right (w : Word) : joinBytes (leftByte w) (rightByte w) = w := append_parts (m := 8) (n := 8) w

/-! ## One byte -/

@[simp] theorem Memory.readByte_nil (k : Nat) : Memory.readByte [] k = 0 := rfl

theorem Memory.readByte_cellOf_append (m : Memory) (k j : Nat) (v : Byte) (h : j ≠ k) :
    Memory.readByte (Memory.cellOf k v ++ m) j = Memory.readByte m j := by
  unfold Memory.cellOf
  split
  · rfl
  · simp [Memory.readByte, Ne.symm h]

/-- A write leaves every other byte alone. -/
theorem Memory.readByte_writeByte_ne (m : Memory) (k j : Nat) (v : Byte) (h : j ≠ k) :
    (m.writeByte k v).readByte j = m.readByte j := by
  induction m with
  | nil => simpa [Memory.writeByte] using Memory.readByte_cellOf_append [] k j v h
  | cons c m ih =>
    obtain ⟨a, w⟩ := c
    simp only [Memory.writeByte]
    split
    · simp only [Memory.readByte, ih]
    · split
      · rw [Memory.readByte_cellOf_append m k j v h, Memory.readByte, if_neg (by omega)]
      · rw [Memory.readByte_cellOf_append _ k j v h]

theorem Memory.wfFrom_cons {n a : Nat} {w : Byte} {m : Memory} :
    Memory.wfFrom n ((a, w) :: m) = true ↔ n ≤ a ∧ w ≠ 0 ∧ Memory.wfFrom (a + 1) m = true := by
  simp only [Memory.wfFrom, Bool.and_eq_true, decide_eq_true_eq, bne_iff_ne, ne_eq, and_assoc]

theorem Memory.wfFrom_mono {m : Memory} {n n' : Nat} (h : n ≤ n') (hw : Memory.wfFrom n' m = true) :
    Memory.wfFrom n m = true := by
  cases m with
  | nil => rfl
  | cons c m =>
    obtain ⟨a, w⟩ := c
    rw [Memory.wfFrom_cons] at hw ⊢
    exact ⟨by omega, hw.2⟩

/-- Below the first address nothing is listed. -/
theorem Memory.readByte_below {m : Memory} {n k : Nat} (hw : Memory.wfFrom n m = true) (h : k < n) :
    m.readByte k = 0 := by
  induction m generalizing n with
  | nil => rfl
  | cons c m ih =>
    obtain ⟨a, w⟩ := c
    rw [Memory.wfFrom_cons] at hw
    rw [Memory.readByte, if_neg (by omega)]
    exact ih hw.2.2 (by omega)

theorem Memory.wfFrom_cellOf_append {m : Memory} {n k : Nat} {v : Byte} (h : n ≤ k)
    (hw : Memory.wfFrom (k + 1) m = true) : Memory.wfFrom n (Memory.cellOf k v ++ m) = true := by
  unfold Memory.cellOf
  split
  · exact Memory.wfFrom_mono (by omega) hw
  · next hv => exact Memory.wfFrom_cons.mpr ⟨h, hv, hw⟩

theorem Memory.wfFrom_writeByte {m : Memory} {n k : Nat} {v : Byte} (h : n ≤ k) (hw : Memory.wfFrom n m = true) :
    Memory.wfFrom n (m.writeByte k v) = true := by
  induction m generalizing n with
  | nil => simpa [Memory.writeByte] using Memory.wfFrom_cellOf_append (m := []) (v := v) h rfl
  | cons c m ih =>
    obtain ⟨a, w⟩ := c
    rw [Memory.wfFrom_cons] at hw
    simp only [Memory.writeByte]
    split
    · next ha => exact Memory.wfFrom_cons.mpr ⟨hw.1, hw.2.1, ih (by omega) hw.2.2⟩
    · split
      · next hk =>
        subst hk
        exact Memory.wfFrom_cellOf_append h hw.2.2
      · refine Memory.wfFrom_cellOf_append h ?_
        exact Memory.wfFrom_cons.mpr ⟨by omega, hw.2⟩

/-- A write keeps the canonical form. -/
theorem Memory.wf_writeByte {m : Memory} {k : Nat} {v : Byte} (hw : m.wf = true) : (m.writeByte k v).wf = true :=
  Memory.wfFrom_writeByte (Nat.zero_le k) hw

theorem Memory.readByte_cellOf_self {m : Memory} {k : Nat} {v : Byte} (hw : Memory.wfFrom (k + 1) m = true) :
    Memory.readByte (Memory.cellOf k v ++ m) k = v := by
  unfold Memory.cellOf
  split
  · next hv => rw [hv, List.nil_append, Memory.readByte_below hw (by omega)]
  · simp [Memory.readByte]

theorem Memory.readByte_writeByte_self_from {m : Memory} {n k : Nat} {v : Byte} (hw : Memory.wfFrom n m = true)
    (h : n ≤ k) : (m.writeByte k v).readByte k = v := by
  induction m generalizing n with
  | nil => simpa [Memory.writeByte] using Memory.readByte_cellOf_self (m := []) (k := k) (v := v) rfl
  | cons c m ih =>
    obtain ⟨a, w⟩ := c
    rw [Memory.wfFrom_cons] at hw
    simp only [Memory.writeByte]
    split
    · next ha =>
      rw [Memory.readByte, if_neg (by omega)]
      exact ih hw.2.2 (by omega)
    · split
      · next hk =>
        subst hk
        exact Memory.readByte_cellOf_self hw.2.2
      · refine Memory.readByte_cellOf_self ?_
        exact Memory.wfFrom_cons.mpr ⟨by omega, hw.2⟩

/-- A read after a write to the same byte gives the value written. -/
theorem Memory.readByte_writeByte_self {m : Memory} {k : Nat} {v : Byte} (hw : m.wf = true) :
    (m.writeByte k v).readByte k = v := Memory.readByte_writeByte_self_from hw (Nat.zero_le k)

/-! ## One word -/

theorem Memory.wf_writeWord {m : Memory} {pa : PhysAddr} {v : Word} (hw : m.wf = true) : (m.writeWord pa v).wf = true :=
  Memory.wf_writeByte (Memory.wf_writeByte hw)

theorem Memory.readByte_writeWord_left {m : Memory} {pa : PhysAddr} {v : Word} (hw : m.wf = true) :
    (m.writeWord pa v).readByte (2 * pa.toNat) = leftByte v := by
  rw [Memory.writeWord, Memory.readByte_writeByte_ne _ _ _ _ (by omega), Memory.readByte_writeByte_self hw]

theorem Memory.readByte_writeWord_right {m : Memory} {pa : PhysAddr} {v : Word} (hw : m.wf = true) :
    (m.writeWord pa v).readByte (2 * pa.toNat + 1) = rightByte v := by
  rw [Memory.writeWord, Memory.readByte_writeByte_self (Memory.wf_writeByte hw)]

/-- A word write leaves every byte of every other word alone. -/
theorem Memory.readByte_writeWord_ne {m : Memory} {pa : PhysAddr} {v : Word} {k : Nat}
    (h : k ≠ 2 * pa.toNat ∧ k ≠ 2 * pa.toNat + 1) : (m.writeWord pa v).readByte k = m.readByte k := by
  rw [Memory.writeWord, Memory.readByte_writeByte_ne _ _ _ _ h.2, Memory.readByte_writeByte_ne _ _ _ _ h.1]

@[simp] theorem Memory.readWord_writeWord_self {m : Memory} {pa : PhysAddr} {v : Word} (hw : m.wf = true) :
    (m.writeWord pa v).readWord pa = v := by
  rw [Memory.readWord, Memory.readByte_writeWord_left hw, Memory.readByte_writeWord_right hw, joinBytes_left_right]

theorem Memory.readWord_writeWord_ne {m : Memory} {pa pb : PhysAddr} {v : Word} (h : pb ≠ pa) :
    (m.writeWord pa v).readWord pb = m.readWord pb := by
  have hn : pb.toNat ≠ pa.toNat := fun e => h (BitVec.eq_of_toNat_eq e)
  rw [Memory.readWord, Memory.readWord, Memory.readByte_writeWord_ne ⟨by omega, by omega⟩,
    Memory.readByte_writeWord_ne ⟨by omega, by omega⟩]

/-! ## Installed words -/

theorem Memory.within_append {words : Nat} {m m' : Memory} (h : m.within words = true) (h' : m'.within words = true) :
    Memory.within words (m ++ m') = true := by
  simp only [Memory.within, List.all_append, Bool.and_eq_true] at *
  exact ⟨h, h'⟩

theorem Memory.within_cellOf {words k : Nat} {v : Byte} (h : k < 2 * words) :
    (Memory.cellOf k v).within words = true := by
  unfold Memory.cellOf
  split
  · rfl
  · simp [Memory.within, h]

theorem Memory.within_writeByte {words k : Nat} {m : Memory} {v : Byte} (hm : m.within words = true)
    (h : k < 2 * words) : (m.writeByte k v).within words = true := by
  induction m with
  | nil => simpa [Memory.writeByte] using Memory.within_cellOf (v := v) h
  | cons c m ih =>
    obtain ⟨a, w⟩ := c
    have hm' : decide (a < 2 * words) = true ∧ Memory.within words m = true := by
      simpa [Memory.within] using hm
    simp only [Memory.writeByte]
    split
    · have := ih hm'.2
      simp only [Memory.within, List.all_cons, Bool.and_eq_true] at this ⊢
      exact ⟨hm'.1, this⟩
    · split
      · exact Memory.within_append (Memory.within_cellOf h) hm'.2
      · exact Memory.within_append (Memory.within_cellOf h) hm

/-- Writing an installed word lists only bytes of installed words. -/
theorem Memory.within_writeWord {words : Nat} {m : Memory} {pa : PhysAddr} {v : Word} (hm : m.within words = true)
    (h : pa.toNat < words) : (m.writeWord pa v).within words = true :=
  Memory.within_writeByte (Memory.within_writeByte hm (by omega)) (by omega)

/-! ## Reset -/

theorem reset_memory_wf : State.reset.mem.wf = true := rfl

end Sys2Proof.Machine
end

