-- ==== Sys2Proof/Laws/Ops.lean ====
section
/-! SUPPORT. For each shared operation, once, everything it can do. -/

namespace Sys2Proof.Machine

/-! ## Faults in sequence -/

theorem bind_ok {α β : Type} {x : Except Fault α} {f : α → Except Fault β} {r : β} :
    (x >>= f) = .ok r ↔ ∃ v, x = .ok v ∧ f v = .ok r := by
  cases x with
  | error e => simp [bind, Except.bind]
  | ok v => simp [bind, Except.bind]

@[simp] theorem ok_bind {α β : Type} (v : α) (f : α → Except Fault β) : ((Except.ok v : Except Fault α) >>= f) = f v := rfl

@[simp] theorem error_bind {α β : Type} (e : Fault) (f : α → Except Fault β) :
    ((Except.error e : Except Fault α) >>= f) = .error e := rfl

@[simp] theorem pure_ok {α : Type} (v : α) : (pure v : Except Fault α) = .ok v := rfl

@[simp] theorem finish_ok (s : State) : finish (.ok s) = .next s := rfl

@[simp] theorem finish_error (f : Fault) : finish (.error f) = .fault f := rfl

theorem finish_next {x : Except Fault State} {t : State} : finish x = .next t ↔ x = .ok t := by
  cases x <;> simp [finish]

theorem finish_fault {x : Except Fault State} {f : Fault} : finish x = .fault f ↔ x = .error f := by
  cases x <;> simp [finish]

theorem finish_not_refused {x : Except Fault State} {r : Refusal} : finish x ≠ .refused r := by
  cases x <;> simp [finish]

/-! ## Addresses -/

theorem installed_ok {s : State} {pa pb : PhysAddr} :
    installed s pa = .ok pb ↔ pa.toNat < s.params.physWords ∧ pb = pa := by
  unfold installed
  split
  · next h => simp [h, eq_comm]
  · next h => simp [h]

theorem installed_of_lt {s : State} {pa : PhysAddr} (h : pa.toNat < s.params.physWords) : installed s pa = .ok pa :=
  installed_ok.mpr ⟨h, rfl⟩

theorem installed_error {s : State} {pa : PhysAddr} {f : Fault} :
    installed s pa = .error f ↔ s.params.physWords ≤ pa.toNat ∧ f = .translationFault pa .nonexistent := by
  unfold installed
  split
  · next h => simp; omega
  · next h => simp [eq_comm]; omega

theorem paged_lt {s : State} {addr : Word} {kind : Access} {o : Option PhysAddr} {pa : PhysAddr}
    (h : paged s addr kind o = .ok pa) : pa.toNat < s.params.physWords := by
  cases o with
  | none => simp [paged] at h
  | some pb =>
    obtain ⟨hlt, rfl⟩ := installed_ok.mp h
    exact hlt

/-- Every located word is installed. -/
theorem locate_lt {s : State} {addr : Word} {kind : Access} {pa : PhysAddr} (h : locate s addr kind = .ok pa) :
    pa.toNat < s.params.physWords := by
  unfold locate at h
  split at h
  · exact paged_lt h
  · obtain ⟨hlt, rfl⟩ := installed_ok.mp h
    exact hlt

/-- With memory management off a logical address is a bank 0 address (R61). -/
theorem locate_off {s : State} (h : s.poni = false) (addr : Word) (kind : Access) :
    locate s addr kind = installed s (bankZero addr) := by simp [locate, h]

@[simp] theorem bankZero_toNat (addr : Word) : (bankZero addr).toNat = addr.toNat := by
  simp only [bankZero, BitVec.toNat_setWidth]
  omega

theorem locate_bankZero {s : State} (h : s.poni = false) (hw : 2 ^ 16 ≤ s.params.physWords) (addr : Word) (kind : Access) :
    locate s addr kind = .ok (bankZero addr) := by
  rw [locate_off h]
  exact installed_of_lt (by have := addr.isLt; simp only [bankZero_toNat]; omega)

theorem memRead_ok {s : State} {addr v : Word} :
    memRead s addr = .ok v ↔ ∃ pa, locate s addr .read = .ok pa ∧ v = s.mem.readWord pa := by
  simp only [memRead, bind_ok, State.physRead, pure_ok, Except.ok.injEq]
  exact exists_congr fun pa => and_congr_right fun _ => eq_comm

theorem memRead_bankZero {s : State} (h : s.poni = false) (hw : 2 ^ 16 ≤ s.params.physWords) (addr : Word) :
    memRead s addr = .ok (s.mem.readWord (bankZero addr)) := by
  simp [memRead, locate_bankZero h hw, State.physRead]

theorem fetch_ok {s : State} {w : Word} :
    fetch s = .ok w ↔ ∃ pa, locate s s.cur.p .fetch = .ok pa ∧ w = s.mem.readWord pa := by
  simp only [fetch, bind_ok, State.physRead, pure_ok, Except.ok.injEq]
  exact exists_congr fun pa => and_congr_right fun _ => eq_comm

theorem physLoad_ok {s : State} {pa : PhysAddr} {v : Word} :
    physLoad s pa = .ok v ↔ pa.toNat < s.params.physWords ∧ v = s.mem.readWord pa := by
  simp only [physLoad, bind_ok, installed_ok, State.physRead, pure_ok, Except.ok.injEq]
  constructor
  · rintro ⟨pb, ⟨h, rfl⟩, rfl⟩
    exact ⟨h, rfl⟩
  · rintro ⟨h, rfl⟩
    exact ⟨pa, ⟨h, rfl⟩, rfl⟩

theorem physStore_ok {s t : State} {pa : PhysAddr} {v : Word} :
    physStore s pa v = .ok t ↔ pa.toNat < s.params.physWords ∧ t = s.physWrite pa v := by
  simp only [physStore, bind_ok, installed_ok, pure_ok, Except.ok.injEq]
  constructor
  · rintro ⟨pb, ⟨h, rfl⟩, rfl⟩
    exact ⟨h, rfl⟩
  · rintro ⟨h, rfl⟩
    exact ⟨pa, ⟨h, rfl⟩, rfl⟩

theorem storeWord_ok {s t : State} {addr v : Word} :
    storeWord s addr v = .ok t ↔ ∃ pa, locate s addr .write = .ok pa ∧ t = (s.physWrite pa v).advance := by
  simp only [storeWord, bind_ok, pure_ok, Except.ok.injEq]
  exact exists_congr fun pa => and_congr_right fun _ => eq_comm

/-! ## Checks -/

theorem requirePrivilege_ok {s : State} {i : Instr} {u : Unit} : requirePrivilege s i = .ok u ↔ privOk s = true := by
  unfold requirePrivilege
  split <;> simp_all

theorem requirePrivilege_of_ok {s : State} {i : Instr} (h : privOk s = true) : requirePrivilege s i = .ok () :=
  requirePrivilege_ok.mpr h

theorem requirePrivilege_error {s : State} {i : Instr} (h : privOk s = false) :
    requirePrivilege s i = .error (.privilegeViolation (encode s.params.opcodes i)) := by simp [requirePrivilege, h]

theorem requireOperand_ok {s : State} {i : Instr} {why : Reserved} {c : Bool} {u : Unit} :
    requireOperand s i why c = .ok u ↔ c = true := by cases c <;> simp [requireOperand]

theorem privOk_of_off {s : State} (h : s.poni = false) : privOk s = true := by simp [privOk, h]

/-! ## Interrupts -/

/-- The level-change rule changes PIL alone. -/
theorem levelChange_eq (s : State) : levelChange s = { s with pil := (levelChange s).pil } := by
  unfold levelChange
  split <;> rfl

/-- The highest set bit below `n`, if there is one. -/
theorem highestBelow_spec (req : Word) (n : Nat) (hn : n ≤ 16) :
    (∀ k, k < n → req.getLsbD k = true → k ≤ (highestBelow req n).toNat) ∧
      ((highestBelow req n).toNat < n ∧ req.getLsbD (highestBelow req n).toNat = true ∨
        highestBelow req n = 0 ∧ ∀ k, k < n → req.getLsbD k = false) := by
  induction n with
  | zero => simp [highestBelow]
  | succ n ih =>
    obtain ⟨hmax, hsel⟩ := ih (by omega)
    have hmod : (BitVec.ofNat 4 n).toNat = n := by
      rw [BitVec.toNat_ofNat]
      omega
    simp only [highestBelow]
    split
    · next hb =>
      refine ⟨fun k hk _ => ?_, .inl ⟨?_, ?_⟩⟩
      · rw [hmod]; omega
      · rw [hmod]; omega
      · rw [hmod]; exact hb
    · next hb =>
      refine ⟨fun k hk hr => ?_, ?_⟩
      · by_cases e : k = n
        · subst e; exact absurd hr hb
        · exact hmax k (by omega) hr
      · rcases hsel with ⟨hlt, hset⟩ | ⟨hz, hnone⟩
        · exact .inl ⟨by omega, hset⟩
        · refine .inr ⟨hz, fun k hk => ?_⟩
          by_cases e : k = n
          · subst e; simpa using hb
          · exact hnone k (by omega)

/-- A host event writes PID and memory only. -/
theorem applyHostEvent_eq (s : State) (e : HostEvent) :
    applyHostEvent s e = { s with pid := (applyHostEvent s e).pid, mem := (applyHostEvent s e).mem } := by
  cases e with
  | interrupt n => simp only [applyHostEvent]; split <;> rfl
  | memWrite pa v => simp only [applyHostEvent, State.physWriteIfInstalled]; split <;> rfl

/-- Everything but PID and memory (and the schedule of the gaps). -/
theorem foldl_applyHostEvent_eq (l : List HostEvent) (s : State) :
    l.foldl applyHostEvent s =
      { s with pid := (l.foldl applyHostEvent s).pid, mem := (l.foldl applyHostEvent s).mem } := by
  induction l generalizing s with
  | nil => rfl
  | cons e l ih =>
    simp only [List.foldl_cons]
    have h := applyHostEvent_eq s e
    have hq := ih (applyHostEvent s e)
    generalize applyHostEvent s e = q at h hq ⊢
    rw [hq]
    cases q
    cases s
    simp only [State.mk.injEq] at h ⊢
    simp only [h, and_self]

/-- The gap writes PID, memory and the schedule only. -/
theorem applyGap_eq (s : State) :
    applyGap s = { s with pid := (applyGap s).pid, mem := (applyGap s).mem, gaps := s.gaps.tail } := by
  unfold applyGap
  exact foldl_applyHostEvent_eq _ _

end Sys2Proof.Machine
end

