-- ==== Sys2Proof/Laws/Frames.lean ====
section
/-! SUPPORT. From the shape of a next state to the frames of Safety.lean, once for every instruction of that shape. -/

namespace Sys2Proof.Machine

theorem Completes.next {i : Instr} {s t : State} {post : State → Prop} (h : exec i s = .next t) (hp : post t) :
    Completes i s post := ⟨t, h, hp⟩

/-- A meaning whose body is `.ok t`. -/
theorem Completes.ok {i : Instr} {s t : State} {post : State → Prop} {x : Except Fault State} (h : exec i s = finish x)
    (hx : x = .ok t) (hp : post t) : Completes i s post := ⟨t, by rw [h, hx]; rfl, hp⟩

/-! ## Registers only -/

theorem setsRegisters_setCur (s : State) (r : Regs) : SetsRegisters s (s.setCur r) r :=
  ⟨s.setCur_cur r, fun k h => s.setCur_lv_ne k r h, ⟨rfl, rfl, rfl, rfl, rfl, rfl, rfl, rfl, rfl, rfl, rfl, rfl, rfl, rfl, rfl⟩,
    fun _ => rfl⟩

theorem setsRegisters_of_eq {s : State} {r r' : Regs} (h : r = r') : SetsRegisters s (s.setCur r) r' :=
  h ▸ setsRegisters_setCur s r

theorem setsRegisters_drawn (s : State) (n : Nat) (r : Regs) : SetsRegisters s ((s.drawn n).setCur r) r :=
  ⟨(s.drawn n).setCur_cur r, fun k h => (s.drawn n).setCur_lv_ne k r h,
    ⟨rfl, rfl, rfl, rfl, rfl, rfl, rfl, rfl, rfl, rfl, rfl, rfl, rfl, rfl, rfl⟩, fun _ => rfl⟩

theorem setsRegisters_advance (s : State) : SetsRegisters s s.advance { s.cur with p := s.cur.p + 1 } :=
  setsRegisters_setCur s _

/-! ## Stores -/

/-- The memory a list of stores leaves. -/
def storedMem (m : Memory) (stores : List (PhysAddr × Word)) : Memory :=
  stores.foldl (fun acc w => acc.writeWord w.1 w.2) m

theorem storedMem_wf {m : Memory} (stores : List (PhysAddr × Word)) (hw : m.wf = true) : (storedMem m stores).wf = true := by
  induction stores generalizing m with
  | nil => exact hw
  | cons w l ih => exact ih (Memory.wf_writeWord hw)

theorem lastStore_append (l : List (PhysAddr × Word)) (w : PhysAddr × Word) (pa : PhysAddr) :
    lastStore (l ++ [w]) pa = if w.1 = pa then some w.2 else lastStore l pa := by
  unfold lastStore
  rw [List.reverse_append, List.reverse_singleton, List.singleton_append, List.find?_cons]
  by_cases h : w.1 = pa
  · simp [h]
  · simp [h, beq_eq_false_iff_ne.mpr h]

theorem storedMem_readWord {m : Memory} (l : List (PhysAddr × Word)) (hw : m.wf = true) (pa : PhysAddr) :
    (storedMem m l).readWord pa = (lastStore l pa).getD (m.readWord pa) := by
  induction l using List.reverseRecOn with
  | nil => rfl
  | append_singleton l w ih =>
    rw [lastStore_append]
    simp only [storedMem, List.foldl_append, List.foldl_cons, List.foldl_nil]
    change ((storedMem m l).writeWord w.1 w.2).readWord pa = _
    split
    · next h => subst h; exact Memory.readWord_writeWord_self (storedMem_wf l hw)
    · next h => rw [Memory.readWord_writeWord_ne (Ne.symm h), ih]

theorem storedMem_readByte {m : Memory} (l : List (PhysAddr × Word)) (k : Nat)
    (h : ∀ pa ∈ l.map Prod.fst, k ≠ 2 * pa.toNat ∧ k ≠ 2 * pa.toNat + 1) : (storedMem m l).readByte k = m.readByte k := by
  induction l generalizing m with
  | nil => rfl
  | cons w l ih =>
    have h1 := ih (m := m.writeWord w.1 w.2) fun pa hp => h pa (by simp only [List.map_cons]; exact List.mem_cons_of_mem _ hp)
    rw [storedMem, List.foldl_cons]
    exact h1.trans (Memory.readByte_writeWord_ne (h w.1 (by simp)))

theorem storesInto_of_mem {s t : State} {l : List (PhysAddr × Word)} (hw : s.mem.wf = true) (h : t.mem = storedMem s.mem l) :
    StoresInto s t l := by
  refine ⟨fun pa v hv => ?_, fun k hk => ?_⟩
  · rw [h, storedMem_readWord l hw, hv]; rfl
  · rw [h, storedMem_readByte l k hk]

/-- Stores and registers, whatever the order they were written in. -/
theorem setsAndStores_of {s t : State} {r : Regs} {l : List (PhysAddr × Word)} (hw : s.mem.wf = true)
    (h : t = { s.setCur r with mem := storedMem s.mem l }) : SetsAndStores s t r l := by
  subst h
  exact ⟨s.setCur_cur r, fun k hn => s.setCur_lv_ne k r hn,
    ⟨rfl, rfl, rfl, rfl, rfl, rfl, rfl, rfl, rfl, rfl, rfl, rfl, rfl, rfl, rfl⟩, storesInto_of_mem hw rfl⟩

/-! ## One destination register -/

theorem writesRegister_setDest (s : State) (q : Regs) (dr : RegField) (v : Word) (hp : q.p = s.cur.p + 1)
    (hq : ∀ f : RegField, f ≠ .p → q.operand f = s.cur.operand f) :
    WritesRegister s (s.setCur (q.setDest dr v)) dr v q.sts := by
  obtain ⟨h1, h2, h3, h4⟩ := setsRegisters_setCur s (q.setDest dr v)
  refine ⟨?_, ?_, ?_, h2, h3, h4⟩
  · rw [h1]; cases dr <;> rfl
  · rw [h1]; cases dr <;> simp [Regs.setDest, hp]
  · intro f hf hfp
    rw [h1]
    have := hq f hfp
    cases dr <;> cases f <;> simp_all [Regs.setDest, Regs.operand]

end Sys2Proof.Machine
end

