-- ==== Sys2Proof/Laws/PerInstr.lean ====
section
/-! SUPPORT. The per-instruction family EncodeMatchesRow: the word of every instruction, with any operands, is a word of its
row of spec/opcode_table.json. One lemma per constructor. -/

namespace Sys2Proof.Laws

/-- The fixed bits of an instruction's row in spec/opcode_table.json: the row's mask and match. The rows of `RSUB` and
`COPY` fix bit 6 and bit 9 at 0, which R347 and R346 make operands (CLD and ADC); here those bits are left free. -/
def tableRow : Instr → Word × Word
  | .stz _ => (0o174000, 0o0)
  | .sta _ => (0o174000, 0o4000)
  | .stt _ => (0o174000, 0o10000)
  | .stx _ => (0o174000, 0o14000)
  | .std _ => (0o174000, 0o20000)
  | .ldd _ => (0o174000, 0o24000)
  | .stf _ => (0o174000, 0o30000)
  | .ldf _ => (0o174000, 0o34000)
  | .min _ => (0o174000, 0o40000)
  | .lda _ => (0o174000, 0o44000)
  | .ldt _ => (0o174000, 0o50000)
  | .ldx _ => (0o174000, 0o54000)
  | .add _ => (0o174000, 0o60000)
  | .sub _ => (0o174000, 0o64000)
  | .and _ => (0o174000, 0o70000)
  | .ora _ => (0o174000, 0o74000)
  | .fad _ => (0o174000, 0o100000)
  | .fsb _ => (0o174000, 0o104000)
  | .fmu _ => (0o174000, 0o110000)
  | .fdv _ => (0o174000, 0o114000)
  | .mpy _ => (0o174000, 0o120000)
  | .jmp _ => (0o174000, 0o124000)
  | .jpl _ => (0o174000, 0o134000)
  | .jap _ => (0o177400, 0o130000)
  | .jan _ => (0o177400, 0o130400)
  | .jaz _ => (0o177400, 0o131000)
  | .jaf _ => (0o177400, 0o131400)
  | .jpc _ => (0o177400, 0o132000)
  | .jnc _ => (0o177400, 0o132400)
  | .jxz _ => (0o177400, 0o133000)
  | .jxn _ => (0o177400, 0o133400)
  | .skp _ _ _ => (0o174300, 0o140000)
  | .addd => (0o177777, 0o140120)
  | .subd => (0o177777, 0o140121)
  | .comd => (0o177777, 0o140122)
  | .tset => (0o177777, 0o140123)
  | .pack => (0o177777, 0o140124)
  | .upack => (0o177777, 0o140125)
  | .shde => (0o177777, 0o140126)
  | .rdus => (0o177777, 0o140127)
  | .bfill => (0o177777, 0o140130)
  | .movb => (0o177777, 0o140131)
  | .movbf => (0o177777, 0o140132)
  | .versn => (0o177777, 0o140133)
  | .init => (0o177777, 0o140134)
  | .entr => (0o177777, 0o140135)
  | .leave => (0o177777, 0o140136)
  | .eleav => (0o177777, 0o140137)
  | .setpt => (0o177777, 0o140300)
  | .clept => (0o177777, 0o140301)
  | .clnreent => (0o177777, 0o140302)
  | .chreentpages => (0o177777, 0o140303)
  | .clepu => (0o177777, 0o140304)
  | .wglob => (0o177777, 0o140500)
  | .rglob => (0o177777, 0o140501)
  | .inspl => (0o177777, 0o140502)
  | .rempl => (0o177777, 0o140503)
  | .cnrek => (0o177777, 0o140504)
  | .clpt => (0o177777, 0o140505)
  | .enpt => (0o177777, 0o140506)
  | .rept => (0o177777, 0o140507)
  | .lbit => (0o177777, 0o140510)
  | .sbit => (0o177777, 0o140511)
  | .lbitp => (0o177777, 0o140512)
  | .sbitp => (0o177777, 0o140513)
  | .lbytp => (0o177777, 0o140514)
  | .sbytp => (0o177777, 0o140515)
  | .tsetp => (0o177777, 0o140516)
  | .rdusp => (0o177777, 0o140517)
  | .geco => (0o177777, 0o142700)
  | .exr _ _ => (0o177700, 0o140600)
  | .lasb _ => (0o177707, 0o140700)
  | .sasb _ => (0o177707, 0o140701)
  | .lacb _ => (0o177707, 0o140702)
  | .sacb _ => (0o177707, 0o140703)
  | .lxsb _ => (0o177707, 0o140704)
  | .lxcb _ => (0o177707, 0o140705)
  | .szsb _ => (0o177707, 0o140706)
  | .szcb _ => (0o177707, 0o140707)
  | .rmpy _ _ => (0o177700, 0o141200)
  | .rdiv _ _ => (0o177700, 0o141600)
  | .lbyt => (0o177777, 0o142200)
  | .sbyt => (0o177777, 0o142600)
  | .movew _ => (0o177700, 0o143100)
  | .mix3 => (0o177777, 0o143200)
  | .ldatx _ => (0o177707, 0o143300)
  | .ldxtx _ => (0o177707, 0o143301)
  | .lddtx _ => (0o177707, 0o143302)
  | .ldbtx _ => (0o177707, 0o143303)
  | .statx _ => (0o177707, 0o143304)
  | .stztx _ => (0o177707, 0o143305)
  | .stdtx _ => (0o177707, 0o143306)
  | .lwcs => (0o177777, 0o143500)
  | .ident _ => (0o177700, 0o143600)
  | .swap _ _ _ _ => (0o177400, 0o144000)
  | .rand _ _ _ _ => (0o177400, 0o144400)
  | .rexo _ _ _ _ => (0o177400, 0o145000)
  | .rora _ _ _ _ => (0o177400, 0o145400)
  | .radd _ _ _ _ _ _ => (0o176000, 0o146000)
  | .copy _ _ _ _ _ => (0o176100, 0o146100)
  | .rsub _ _ _ => (0o177600, 0o146600)
  | .rinc _ => (0o177770, 0o146400)
  | .rdcr _ => (0o177770, 0o146200)
  | .rclr _ => (0o177770, 0o146100)
  | .exit => (0o177777, 0o146142)
  | .tra _ => (0o177760, 0o150000)
  | .trr _ => (0o177760, 0o150100)
  | .mcl _ => (0o177760, 0o150200)
  | .mst _ => (0o177760, 0o150300)
  | .opcom => (0o177777, 0o150400)
  | .iof => (0o177777, 0o150401)
  | .ion => (0o177777, 0o150402)
  | .pof => (0o177777, 0o150404)
  | .piof => (0o177777, 0o150405)
  | .sex => (0o177777, 0o150406)
  | .rex => (0o177777, 0o150407)
  | .pon => (0o177777, 0o150410)
  | .pion => (0o177777, 0o150412)
  | .ioxt => (0o177777, 0o150415)
  | .exam => (0o177777, 0o150416)
  | .depo => (0o177777, 0o150417)
  | .wait _ => (0o177400, 0o151000)
  | .nlz _ => (0o177400, 0o151400)
  | .dnz _ => (0o177400, 0o152000)
  | .srb _ => (0o177607, 0o152602)
  | .lrb _ => (0o177607, 0o152600)
  | .mon _ => (0o177400, 0o153000)
  | .irw _ _ => (0o177600, 0o153400)
  | .irr _ _ => (0o177600, 0o153600)
  | .sht _ _ => (0o174700, 0o154000)
  | .shd _ _ => (0o174700, 0o154200)
  | .sha _ _ => (0o174700, 0o154400)
  | .sad _ _ => (0o174700, 0o154600)
  | .iot _ => (0o174000, 0o160000)
  | .iox _ => (0o174000, 0o164000)
  | .sab _ => (0o177400, 0o170000)
  | .saa _ => (0o177400, 0o170400)
  | .sat _ => (0o177400, 0o171000)
  | .sax _ => (0o177400, 0o171400)
  | .aab _ => (0o177400, 0o172000)
  | .aaa _ => (0o177400, 0o172400)
  | .aat _ => (0o177400, 0o173000)
  | .aax _ => (0o177400, 0o173400)
  | .bsetZro _ _ => (0o177600, 0o174000)
  | .bsetOne _ _ => (0o177600, 0o174200)
  | .bsetBcm _ _ => (0o177600, 0o174400)
  | .bsetBac _ _ => (0o177600, 0o174600)
  | .bskpZro _ _ => (0o177600, 0o175000)
  | .bskpOne _ _ => (0o177600, 0o175200)
  | .bskpBcm _ _ => (0o177600, 0o175400)
  | .bskpBac _ _ => (0o177600, 0o175600)
  | .bstc _ _ => (0o177600, 0o176000)
  | .bsta _ _ => (0o177600, 0o176200)
  | .bldc _ _ => (0o177600, 0o176400)
  | .blda _ _ => (0o177600, 0o176600)
  | .banc _ _ => (0o177600, 0o177000)
  | .band _ _ => (0o177600, 0o177200)
  | .borc _ _ => (0o177600, 0o177400)
  | .bora _ _ => (0o177600, 0o177600)

/-- The word of `i`, at the default opcodes that the table prints, has the fixed bits of its row. -/
def EncodeMatchesRow.Statement (i : Instr) : Prop :=
  encode Config.defaultOpcodes i &&& (tableRow i).1 = (tableRow i).2

/-! ## Masking, by format -/

/-- Masking an appended word masks its parts. -/
theorem andParts {m n : Nat} {a c a' : BitVec m} {b d b' : BitVec n} (ha : a &&& c = a') (hb : b &&& d = b') :
    (a ++ b) &&& (c ++ d) = a' ++ b' := by
  rw [BitVec.and_append, ha, hb]

theorem keep {n : Nat} (a : BitVec n) : a &&& BitVec.allOnes n = a := BitVec.and_allOnes

theorem drop {n : Nat} (a : BitVec n) : a &&& 0#n = 0#n := BitVec.and_zero

theorem maskMem (op : BitVec 5) (r : BitVec 11) : (op ++ r) &&& (0o174000 : Word) = op ++ 0#11 :=
  andParts (keep op) (drop r)

theorem maskByte8 (op : BitVec 5) (sub : BitVec 3) (n : Byte) :
    encodeByte8 op sub n &&& (0o177400 : Word) = op ++ (sub ++ 0#8) :=
  andParts (keep op) (andParts (keep sub) (drop n))

theorem maskKey (op key : BitVec 5) (r : BitVec 6) : encodeKey op key r &&& (0o177700 : Word) = op ++ (key ++ 0#6) :=
  andParts (keep op) (andParts (keep key) (drop r))

theorem maskDelta (op key : BitVec 5) (delta n : BitVec 3) :
    encodeKey op key (pair33 delta n) &&& (0o177707 : Word) = op ++ (key ++ (0#3 ++ n)) :=
  andParts (keep op) (andParts (keep key) (andParts (drop delta) (keep n)))

theorem maskSkp (c : SkipCond) (r : BitVec 6) :
    encodeKey 24 (c.bits ++ 0#2) r &&& (0o174300 : Word) = 24#5 ++ ((0#3 ++ 0#2) ++ 0#6) :=
  andParts (keep 24#5) (andParts (andParts (drop c.bits) (keep 0#2)) (drop r))

/-- The mask of a ROP word, by the bits 10-6 it keeps. -/
theorem maskRop (m5 : BitVec 5) (b : Word) (rad b9 b8 cm1 cld : Bool) (sr dr : RegField)
    (hb : 25#5 ++ ((BitVec.ofBool rad ++ (BitVec.ofBool b9 ++ (BitVec.ofBool b8 ++ (BitVec.ofBool cm1 ++
      BitVec.ofBool cld))) &&& m5) ++ 0#6) = b) :
    encodeRop rad b9 b8 cm1 cld sr dr &&& (BitVec.allOnes 5 ++ (m5 ++ 0#6) : Word) = b :=
  (andParts (keep 25#5) (andParts rfl (drop (pair33 sr.bits dr.bits)))).trans hb

theorem maskIreg (g n : BitVec 4) : encodeIreg g n &&& (0o177760 : Word) = encodeIreg g 0 :=
  andParts (keep 26#5) (andParts (keep 0#3) (andParts (keep g) (drop n)))

theorem maskLvl (sub : BitVec 3) (b7 : BitVec 1) (level : Level) (type : BitVec 3) :
    encodeLvl sub b7 level type &&& (0o177600 : Word) = encodeLvl sub b7 0 0 :=
  andParts (keep 26#5) (andParts (keep sub) (andParts (keep b7) (andParts (drop level) (drop type))))

theorem maskLvlType (sub : BitVec 3) (b7 : BitVec 1) (level : Level) (type : BitVec 3) :
    encodeLvl sub b7 level type &&& (0o177607 : Word) = encodeLvl sub b7 0 type :=
  andParts (keep 26#5) (andParts (keep sub) (andParts (keep b7) (andParts (drop level) (keep type))))

theorem maskShift (ty : ShiftType) (reg : BitVec 2) (count : BitVec 6) :
    encodeShift ty reg count &&& (0o174700 : Word) = encodeShift .arith reg 0 :=
  andParts (keep 27#5) (andParts (andParts (drop ty.bits) (andParts (keep reg) (keep 0#1))) (drop count))

theorem maskBit (type bn : BitVec 4) (dr : RegField) :
    encodeBit type bn dr &&& (0o177600 : Word) = encodeBit type 0 .code0 :=
  andParts (keep 31#5) (andParts (keep type) (andParts (drop bn) (drop dr.bits)))

/-! ## One lemma per instruction -/

namespace EncodeMatchesRow

theorem stz (m : MemOperand) : Statement (.stz m) :=
  maskMem 0 m.bits

theorem sta (m : MemOperand) : Statement (.sta m) :=
  maskMem 1 m.bits

theorem stt (m : MemOperand) : Statement (.stt m) :=
  maskMem 2 m.bits

theorem stx (m : MemOperand) : Statement (.stx m) :=
  maskMem 3 m.bits

theorem std (m : MemOperand) : Statement (.std m) :=
  maskMem 4 m.bits

theorem ldd (m : MemOperand) : Statement (.ldd m) :=
  maskMem 5 m.bits

theorem stf (m : MemOperand) : Statement (.stf m) :=
  maskMem 6 m.bits

theorem ldf (m : MemOperand) : Statement (.ldf m) :=
  maskMem 7 m.bits

theorem min (m : MemOperand) : Statement (.min m) :=
  maskMem 8 m.bits

theorem lda (m : MemOperand) : Statement (.lda m) :=
  maskMem 9 m.bits

theorem ldt (m : MemOperand) : Statement (.ldt m) :=
  maskMem 10 m.bits

theorem ldx (m : MemOperand) : Statement (.ldx m) :=
  maskMem 11 m.bits

theorem add (m : MemOperand) : Statement (.add m) :=
  maskMem 12 m.bits

theorem sub (m : MemOperand) : Statement (.sub m) :=
  maskMem 13 m.bits

theorem and (m : MemOperand) : Statement (.and m) :=
  maskMem 14 m.bits

theorem ora (m : MemOperand) : Statement (.ora m) :=
  maskMem 15 m.bits

theorem fad (m : MemOperand) : Statement (.fad m) :=
  maskMem 16 m.bits

theorem fsb (m : MemOperand) : Statement (.fsb m) :=
  maskMem 17 m.bits

theorem fmu (m : MemOperand) : Statement (.fmu m) :=
  maskMem 18 m.bits

theorem fdv (m : MemOperand) : Statement (.fdv m) :=
  maskMem 19 m.bits

theorem mpy (m : MemOperand) : Statement (.mpy m) :=
  maskMem 20 m.bits

theorem jmp (m : MemOperand) : Statement (.jmp m) :=
  maskMem 21 m.bits

theorem jpl (m : MemOperand) : Statement (.jpl m) :=
  maskMem 23 m.bits

theorem jap (disp : Byte) : Statement (.jap disp) :=
  maskByte8 22 0 disp

theorem jan (disp : Byte) : Statement (.jan disp) :=
  maskByte8 22 1 disp

theorem jaz (disp : Byte) : Statement (.jaz disp) :=
  maskByte8 22 2 disp

theorem jaf (disp : Byte) : Statement (.jaf disp) :=
  maskByte8 22 3 disp

theorem jpc (disp : Byte) : Statement (.jpc disp) :=
  maskByte8 22 4 disp

theorem jnc (disp : Byte) : Statement (.jnc disp) :=
  maskByte8 22 5 disp

theorem jxz (disp : Byte) : Statement (.jxz disp) :=
  maskByte8 22 6 disp

theorem jxn (disp : Byte) : Statement (.jxn disp) :=
  maskByte8 22 7 disp

theorem skp (cond : SkipCond) (sr dr : RegField) : Statement (.skp cond sr dr) :=
  maskSkp cond _

theorem addd : Statement (.addd) :=
  rfl

theorem subd : Statement (.subd) :=
  rfl

theorem comd : Statement (.comd) :=
  rfl

theorem tset : Statement (.tset) :=
  rfl

theorem pack : Statement (.pack) :=
  rfl

theorem upack : Statement (.upack) :=
  rfl

theorem shde : Statement (.shde) :=
  rfl

theorem rdus : Statement (.rdus) :=
  rfl

theorem bfill : Statement (.bfill) :=
  rfl

theorem movb : Statement (.movb) :=
  rfl

theorem movbf : Statement (.movbf) :=
  rfl

theorem versn : Statement (.versn) :=
  rfl

theorem init : Statement (.init) :=
  rfl

theorem entr : Statement (.entr) :=
  rfl

theorem leave : Statement (.leave) :=
  rfl

theorem eleav : Statement (.eleav) :=
  rfl

theorem setpt : Statement (.setpt) :=
  rfl

theorem clept : Statement (.clept) :=
  rfl

theorem clnreent : Statement (.clnreent) :=
  rfl

theorem chreentpages : Statement (.chreentpages) :=
  rfl

theorem clepu : Statement (.clepu) :=
  rfl

theorem wglob : Statement (.wglob) :=
  rfl

theorem rglob : Statement (.rglob) :=
  rfl

theorem inspl : Statement (.inspl) :=
  rfl

theorem rempl : Statement (.rempl) :=
  rfl

theorem cnrek : Statement (.cnrek) :=
  rfl

theorem clpt : Statement (.clpt) :=
  rfl

theorem enpt : Statement (.enpt) :=
  rfl

theorem rept : Statement (.rept) :=
  rfl

theorem lbit : Statement (.lbit) :=
  rfl

theorem sbit : Statement (.sbit) :=
  rfl

theorem lbitp : Statement (.lbitp) :=
  rfl

theorem sbitp : Statement (.sbitp) :=
  rfl

theorem lbytp : Statement (.lbytp) :=
  rfl

theorem sbytp : Statement (.sbytp) :=
  rfl

theorem tsetp : Statement (.tsetp) :=
  rfl

theorem rdusp : Statement (.rdusp) :=
  rfl

theorem geco : Statement (.geco) :=
  rfl

theorem exr (sr dr : RegField) : Statement (.exr sr dr) :=
  maskKey 24 6 _

theorem lasb (delta : BitVec 3) : Statement (.lasb delta) :=
  (by decide : ∀ d : BitVec 3, offsetWord 0o140700 d &&& 0o177707 = 0o140700) delta

theorem sasb (delta : BitVec 3) : Statement (.sasb delta) :=
  (by decide : ∀ d : BitVec 3, offsetWord 0o140701 d &&& 0o177707 = 0o140701) delta

theorem lacb (delta : BitVec 3) : Statement (.lacb delta) :=
  (by decide : ∀ d : BitVec 3, offsetWord 0o140702 d &&& 0o177707 = 0o140702) delta

theorem sacb (delta : BitVec 3) : Statement (.sacb delta) :=
  (by decide : ∀ d : BitVec 3, offsetWord 0o140703 d &&& 0o177707 = 0o140703) delta

theorem lxsb (delta : BitVec 3) : Statement (.lxsb delta) :=
  (by decide : ∀ d : BitVec 3, offsetWord 0o140704 d &&& 0o177707 = 0o140704) delta

theorem lxcb (delta : BitVec 3) : Statement (.lxcb delta) :=
  (by decide : ∀ d : BitVec 3, offsetWord 0o140705 d &&& 0o177707 = 0o140705) delta

theorem szsb (delta : BitVec 3) : Statement (.szsb delta) :=
  (by decide : ∀ d : BitVec 3, offsetWord 0o140706 d &&& 0o177707 = 0o140706) delta

theorem szcb (delta : BitVec 3) : Statement (.szcb delta) :=
  (by decide : ∀ d : BitVec 3, offsetWord 0o140707 d &&& 0o177707 = 0o140707) delta

theorem rmpy (sr dr : RegField) : Statement (.rmpy sr dr) :=
  maskKey 24 10 _

theorem rdiv (sr dr : RegField) : Statement (.rdiv sr dr) :=
  maskKey 24 14 _

theorem lbyt : Statement (.lbyt) :=
  rfl

theorem sbyt : Statement (.sbyt) :=
  rfl

theorem movew (ty : BitVec 6) : Statement (.movew ty) :=
  maskKey 24 25 ty

theorem mix3 : Statement (.mix3) :=
  rfl

theorem ldatx (delta : BitVec 3) : Statement (.ldatx delta) :=
  maskDelta 24 27 delta 0

theorem ldxtx (delta : BitVec 3) : Statement (.ldxtx delta) :=
  maskDelta 24 27 delta 1

theorem lddtx (delta : BitVec 3) : Statement (.lddtx delta) :=
  maskDelta 24 27 delta 2

theorem ldbtx (delta : BitVec 3) : Statement (.ldbtx delta) :=
  maskDelta 24 27 delta 3

theorem statx (delta : BitVec 3) : Statement (.statx delta) :=
  maskDelta 24 27 delta 4

theorem stztx (delta : BitVec 3) : Statement (.stztx delta) :=
  maskDelta 24 27 delta 5

theorem stdtx (delta : BitVec 3) : Statement (.stdtx delta) :=
  maskDelta 24 27 delta 6

theorem lwcs : Statement (.lwcs) :=
  rfl

theorem ident (code : BitVec 6) : Statement (.ident code) :=
  maskKey 24 30 code

theorem swap (cm1 cld : Bool) (sr dr : RegField) : Statement (.swap cm1 cld sr dr) :=
  maskRop 0b11100#5 _ false false false cm1 cld sr dr (by cases cm1 <;> cases cld <;> rfl)

theorem rand (cm1 cld : Bool) (sr dr : RegField) : Statement (.rand cm1 cld sr dr) :=
  maskRop 0b11100#5 _ false false true cm1 cld sr dr (by cases cm1 <;> cases cld <;> rfl)

theorem rexo (cm1 cld : Bool) (sr dr : RegField) : Statement (.rexo cm1 cld sr dr) :=
  maskRop 0b11100#5 _ false true false cm1 cld sr dr (by cases cm1 <;> cases cld <;> rfl)

theorem rora (cm1 cld : Bool) (sr dr : RegField) : Statement (.rora cm1 cld sr dr) :=
  maskRop 0b11100#5 _ false true true cm1 cld sr dr (by cases cm1 <;> cases cld <;> rfl)

theorem radd (adc ad1 cm1 cld : Bool) (sr dr : RegField) : Statement (.radd adc ad1 cm1 cld sr dr) :=
  maskRop 0b10000#5 _ true adc ad1 cm1 cld sr dr (by cases adc <;> cases ad1 <;> cases cm1 <;> cases cld <;> rfl)

theorem copy (adc ad1 cm1 : Bool) (sr dr : RegField) : Statement (.copy adc ad1 cm1 sr dr) :=
  maskRop 0b10001#5 _ true adc ad1 cm1 true sr dr (by cases adc <;> cases ad1 <;> cases cm1 <;> rfl)

theorem rsub (cld : Bool) (sr dr : RegField) : Statement (.rsub cld sr dr) :=
  maskRop 0b11110#5 _ true false true true cld sr dr (by cases cld <;> rfl)

theorem rinc (dr : RegField) : Statement (.rinc dr) :=
  by cases dr <;> rfl

theorem rdcr (dr : RegField) : Statement (.rdcr dr) :=
  by cases dr <;> rfl

theorem rclr (dr : RegField) : Statement (.rclr dr) :=
  by cases dr <;> rfl

theorem exit : Statement (.exit) :=
  rfl

theorem tra (n : BitVec 4) : Statement (.tra n) :=
  maskIreg 0 n

theorem trr (n : BitVec 4) : Statement (.trr n) :=
  maskIreg 4 n

theorem mcl (n : BitVec 4) : Statement (.mcl n) :=
  maskIreg 8 n

theorem mst (n : BitVec 4) : Statement (.mst n) :=
  maskIreg 12 n

theorem opcom : Statement (.opcom) :=
  rfl

theorem iof : Statement (.iof) :=
  rfl

theorem ion : Statement (.ion) :=
  rfl

theorem pof : Statement (.pof) :=
  rfl

theorem piof : Statement (.piof) :=
  rfl

theorem sex : Statement (.sex) :=
  rfl

theorem rex : Statement (.rex) :=
  rfl

theorem pon : Statement (.pon) :=
  rfl

theorem pion : Statement (.pion) :=
  rfl

theorem ioxt : Statement (.ioxt) :=
  rfl

theorem exam : Statement (.exam) :=
  rfl

theorem depo : Statement (.depo) :=
  rfl

theorem wait (n : Byte) : Statement (.wait n) :=
  maskByte8 26 2 n

theorem nlz (scale : Byte) : Statement (.nlz scale) :=
  maskByte8 26 3 scale

theorem dnz (scale : Byte) : Statement (.dnz scale) :=
  maskByte8 26 4 scale

theorem srb (level : Level) : Statement (.srb level) :=
  (by decide : ∀ l : Level, offsetWord 0o152602 l &&& 0o177607 = 0o152602) level

theorem lrb (level : Level) : Statement (.lrb level) :=
  maskLvlType 5 1 level 0

theorem mon (n : Byte) : Statement (.mon n) :=
  maskByte8 26 6 n

theorem irw (level : Level) (r : RegField) : Statement (.irw level r) :=
  maskLvl 7 0 level r.bits

theorem irr (level : Level) (r : RegField) : Statement (.irr level r) :=
  maskLvl 7 1 level r.bits

theorem sht (ty : ShiftType) (count : BitVec 6) : Statement (.sht ty count) :=
  maskShift ty 0 count

theorem shd (ty : ShiftType) (count : BitVec 6) : Statement (.shd ty count) :=
  maskShift ty 1 count

theorem sha (ty : ShiftType) (count : BitVec 6) : Statement (.sha ty count) :=
  maskShift ty 2 count

theorem sad (ty : ShiftType) (count : BitVec 6) : Statement (.sad ty count) :=
  maskShift ty 3 count

theorem iot (addr : BitVec 11) : Statement (.iot addr) :=
  maskMem 28 addr

theorem iox (addr : BitVec 11) : Statement (.iox addr) :=
  maskMem 29 addr

theorem sab (arg : Byte) : Statement (.sab arg) :=
  maskByte8 30 0 arg

theorem saa (arg : Byte) : Statement (.saa arg) :=
  maskByte8 30 1 arg

theorem sat (arg : Byte) : Statement (.sat arg) :=
  maskByte8 30 2 arg

theorem sax (arg : Byte) : Statement (.sax arg) :=
  maskByte8 30 3 arg

theorem aab (arg : Byte) : Statement (.aab arg) :=
  maskByte8 30 4 arg

theorem aaa (arg : Byte) : Statement (.aaa arg) :=
  maskByte8 30 5 arg

theorem aat (arg : Byte) : Statement (.aat arg) :=
  maskByte8 30 6 arg

theorem aax (arg : Byte) : Statement (.aax arg) :=
  maskByte8 30 7 arg

theorem bsetZro (bn : BitVec 4) (dr : RegField) : Statement (.bsetZro bn dr) :=
  maskBit 0 bn dr

theorem bsetOne (bn : BitVec 4) (dr : RegField) : Statement (.bsetOne bn dr) :=
  maskBit 1 bn dr

theorem bsetBcm (bn : BitVec 4) (dr : RegField) : Statement (.bsetBcm bn dr) :=
  maskBit 2 bn dr

theorem bsetBac (bn : BitVec 4) (dr : RegField) : Statement (.bsetBac bn dr) :=
  maskBit 3 bn dr

theorem bskpZro (bn : BitVec 4) (dr : RegField) : Statement (.bskpZro bn dr) :=
  maskBit 4 bn dr

theorem bskpOne (bn : BitVec 4) (dr : RegField) : Statement (.bskpOne bn dr) :=
  maskBit 5 bn dr

theorem bskpBcm (bn : BitVec 4) (dr : RegField) : Statement (.bskpBcm bn dr) :=
  maskBit 6 bn dr

theorem bskpBac (bn : BitVec 4) (dr : RegField) : Statement (.bskpBac bn dr) :=
  maskBit 7 bn dr

theorem bstc (bn : BitVec 4) (dr : RegField) : Statement (.bstc bn dr) :=
  maskBit 8 bn dr

theorem bsta (bn : BitVec 4) (dr : RegField) : Statement (.bsta bn dr) :=
  maskBit 9 bn dr

theorem bldc (bn : BitVec 4) (dr : RegField) : Statement (.bldc bn dr) :=
  maskBit 10 bn dr

theorem blda (bn : BitVec 4) (dr : RegField) : Statement (.blda bn dr) :=
  maskBit 11 bn dr

theorem banc (bn : BitVec 4) (dr : RegField) : Statement (.banc bn dr) :=
  maskBit 12 bn dr

theorem band (bn : BitVec 4) (dr : RegField) : Statement (.band bn dr) :=
  maskBit 13 bn dr

theorem borc (bn : BitVec 4) (dr : RegField) : Statement (.borc bn dr) :=
  maskBit 14 bn dr

theorem bora (bn : BitVec 4) (dr : RegField) : Statement (.bora bn dr) :=
  maskBit 15 bn dr

end EncodeMatchesRow

end Sys2Proof.Laws
end

