-- ==== Sys2Proof/Laws/Walks.lean ====
section
/-! SUPPORT. What the instructions that walk over memory can do: the byte blocks, the word-block move, the words a parameter
function writes. Each walk has one lemma for the case that it ends and one for the fault that stops it. -/

namespace Sys2Proof.Machine

/-- A memory got from another by writing words: it keeps the canonical form and what lies beyond the physical address space. -/
structure Rewritten (m m' : Memory) : Prop where
  wf   : m.wf = true → m'.wf = true
  high : ∀ k : Nat, 2 ^ 25 ≤ k → m'.readByte k = m.readByte k

theorem Rewritten.refl (m : Memory) : Rewritten m m := ⟨id, fun _ _ => rfl⟩

theorem Rewritten.trans {a b c : Memory} (h : Rewritten a b) (h' : Rewritten b c) : Rewritten a c :=
  ⟨fun x => h'.wf (h.wf x), fun k hk => (h'.high k hk).trans (h.high k hk)⟩

theorem rewritten_writeWord (m : Memory) (pa : PhysAddr) (v : Word) : Rewritten m (m.writeWord pa v) :=
  ⟨Memory.wf_writeWord, fun _ hk => Memory.readByte_writeWord_ne (by have := pa.isLt; constructor <;> omega)⟩

/-! ## The walk -/

/-- The steps of a walk as words, one more in front. -/
def stepsFrom (first : PhysAddr → Word) (rest : Nat → PhysAddr → Word) : Nat → PhysAddr → Word
  | 0 => first
  | n + 1 => rest n

/-- A walk whose k-th write puts the value `v k` of the words before it at `w k`: the words after each write. -/
theorem walk_ok {write : Nat → Memory → Except Fault Memory} {w : Nat → PhysAddr} {v : Nat → (PhysAddr → Word) → Word}
    (n : Nat) : ∀ (k : Nat) (mem : Memory), mem.wf = true →
      (∀ j, k ≤ j → j < k + n → ∀ m : Memory, write j m = .ok (m.writeWord (w j) (v j m.readWord))) →
      ∃ (mem' : Memory) (words : Nat → PhysAddr → Word), walk write n k mem = .ok mem' ∧ Rewritten mem mem' ∧
        words 0 = mem.readWord ∧ words n = mem'.readWord ∧
        ∀ i, i < n → ∀ pa, words (i + 1) pa = if pa = w (k + i) then v (k + i) (words i) else words i pa := by
  induction n with
  | zero => exact fun k mem hw h => ⟨mem, fun _ => mem.readWord, rfl, .refl mem, rfl, rfl, by simp⟩
  | succ n ih =>
    intro k mem hw h
    obtain ⟨m, ws, e, t, w0, wn, st⟩ := ih (k + 1) _ (Memory.wf_writeWord hw) fun j h1 h2 => h j (by omega) (by omega)
    refine ⟨m, stepsFrom mem.readWord ws, ?_, (rewritten_writeWord _ _ _).trans t, rfl, wn, fun i hi pa => ?_⟩
    · simp only [walk, h k (by omega) (by omega) mem, ok_bind]
      exact e
    · cases i with
      | zero =>
        simp only [stepsFrom, w0, Nat.add_zero]
        split
        · next hp => subst hp; exact Memory.readWord_writeWord_self hw
        · next hp => exact Memory.readWord_writeWord_ne hp
      | succ i =>
        have := st i (by omega) pa
        rwa [show k + 1 + i = k + (i + 1) by omega] at this

/-- A walk that a write stops. -/
theorem walk_error {write : Nat → Memory → Except Fault Memory} {f : Fault} (i : Nat) :
    ∀ (n k : Nat) (mem : Memory), i < n → (∀ j, k ≤ j → j < k + i → ∀ m, ∃ m', write j m = .ok m') →
      (∀ m, write (k + i) m = .error f) → walk write n k mem = .error f := by
  induction i with
  | zero =>
    intro n k mem hn _ hf
    obtain ⟨n, rfl⟩ : ∃ m, n = m + 1 := ⟨n - 1, by omega⟩
    simp only [walk, Nat.add_zero] at hf ⊢
    simp only [hf, error_bind]
  | succ i ih =>
    intro n k mem hn h hf
    obtain ⟨n, rfl⟩ : ∃ m, n = m + 1 := ⟨n - 1, by omega⟩
    obtain ⟨m', hm⟩ := h k (by omega) (by omega) mem
    simp only [walk, hm, ok_bind]
    exact ih n (k + 1) m' (by omega) (fun j h1 h2 => h j (by omega) (by omega))
      fun m => by rw [show k + 1 + i = k + (i + 1) by omega]; exact hf m

/-! ## Bytes at a linear index -/

theorem indexWord_eq (j : Nat) : indexWord j = byteWord j := rfl

theorem indexRight_eq (j : Nat) : indexRight j = (BitVec.ofNat 16 j).getLsbD 0 := by
  rw [BitVec.getLsbD_ofNat]
  simp [indexRight, Nat.testBit_zero]

theorem mergeByte_index (w : Word) (j : Nat) (v : Byte) :
    mergeByte w (indexRight j) v = withByte w (BitVec.ofNat 16 j) v := by
  rw [indexRight_eq]
  rfl

theorem selectByte_index (words : PhysAddr → Word) (pa : PhysAddr) (j : Nat) :
    selectByte (words pa) (indexRight j) = byteIn words pa j := by
  rw [indexRight_eq, byteIn, byteOf, append_low]
  rfl

theorem storeByteIndex_ok {s : State} {j : Nat} {pr pw : PhysAddr} (h : StoreReaches s j pr pw) (m : Memory) (v : Byte) :
    storeByteIndex s m j v = .ok (m.writeWord pw (withByte (m.readWord pr) (BitVec.ofNat 16 j) v)) := by
  simp [storeByteIndex, storeByteAt, indexWord_eq, h.1, h.2, mergeByte_index]

theorem storeByteIndex_error {s : State} {j : Nat} {f : Fault} (h : StoreFails s j f) (m : Memory) (v : Byte) :
    storeByteIndex s m j v = .error f := by
  rcases h with h | ⟨⟨pr, h⟩, h'⟩
  · simp [storeByteIndex, storeByteAt, indexWord_eq, h]
  · simp [storeByteIndex, storeByteAt, indexWord_eq, h, h']

theorem loadByteAt_ok {s : State} {j : Nat} {ps : PhysAddr} (h : locate s (byteWord j) .read = .ok ps) (m : Memory) :
    loadByteAt s m j = .ok (byteIn m.readWord ps j) := by
  simp [loadByteAt, indexWord_eq, h, selectByte_index]

theorem loadByteAt_error {s : State} {j : Nat} {f : Fault} (h : locate s (byteWord j) .read = .error f) (m : Memory) :
    loadByteAt s m j = .error f := by
  simp [loadByteAt, indexWord_eq, h]

/-- Bytes read: one for each index. -/
theorem readBytes_ok {s : State} {m : Memory} (n : Nat) : ∀ (j : Nat) (ps : Nat → PhysAddr),
    (∀ k, k < n → locate s (byteWord (j + k)) .read = .ok (ps k)) →
    ∃ l, readBytes s m n j = .ok l ∧ l.length = n ∧ ∀ k, k < n → l.getD k 0 = byteIn m.readWord (ps k) (j + k) := by
  induction n with
  | zero => exact fun j ps h => ⟨[], rfl, rfl, by simp⟩
  | succ n ih =>
    intro j ps h
    obtain ⟨l, e, hl, hv⟩ := ih (j + 1) (fun k => ps (k + 1)) fun k hk => by
      have := h (k + 1) (by omega)
      rwa [show j + 1 + k = j + (k + 1) by omega]
    have h0 := h 0 (by omega)
    refine ⟨byteIn m.readWord (ps 0) j :: l, ?_, by simp [hl], fun k hk => ?_⟩
    · simp only [Nat.add_zero] at h0
      simp [readBytes, loadByteAt_ok h0, e]
    · cases k with
      | zero => simp
      | succ k =>
        have := hv k (by omega)
        rw [show j + 1 + k = j + (k + 1) by omega] at this
        simpa using this

theorem readBytes_error {s : State} {m : Memory} {f : Fault} (i : Nat) : ∀ n j, i < n →
    (∀ k, k < i → ∃ ps, locate s (byteWord (j + k)) .read = .ok ps) → locate s (byteWord (j + i)) .read = .error f →
    readBytes s m n j = .error f := by
  induction i with
  | zero =>
    intro n j hn _ hf
    obtain ⟨n, rfl⟩ : ∃ m, n = m + 1 := ⟨n - 1, by omega⟩
    simp only [Nat.add_zero] at hf
    simp [readBytes, loadByteAt_error hf]
  | succ i ih =>
    intro n j hn h hf
    obtain ⟨n, rfl⟩ : ∃ m, n = m + 1 := ⟨n - 1, by omega⟩
    obtain ⟨ps, h0⟩ := h 0 (by omega)
    simp only [Nat.add_zero] at h0
    have := ih n (j + 1) (by omega)
      (fun k hk => by have := h (k + 1) (by omega); rwa [show j + 1 + k = j + (k + 1) by omega])
      (by rwa [show j + 1 + i = j + (i + 1) by omega])
    simp [readBytes, loadByteAt_ok h0, this]

/-! ## The words a parameter function writes -/

/-- Words written by physical address: all are installed, the rest of the state stays. -/
theorem sintranWrites_ok (l : List (PhysAddr × Word)) : ∀ {s t : State}, sintranWrites s l = .ok t →
    (∀ e ∈ l, e.1.toNat < s.params.physWords) ∧ t = { s with mem := storedMem s.mem l } := by
  induction l with
  | nil => rintro s t h; cases h; exact ⟨by simp, rfl⟩
  | cons e l ih =>
    intro s t h
    obtain ⟨q, hq, ht⟩ := bind_ok.mp h
    obtain ⟨hp, rfl⟩ := physStore_ok.mp hq
    obtain ⟨hl, rfl⟩ := ih ht
    exact ⟨fun x hx => (List.mem_cons.mp hx).elim (fun h => h ▸ hp) (hl x), rfl⟩

/-- The fault of words written by physical address is that of a word not installed. -/
theorem sintranWrites_error (l : List (PhysAddr × Word)) : ∀ {s : State} {f : Fault}, sintranWrites s l = .error f →
    ∃ e ∈ l, s.params.physWords ≤ e.1.toNat ∧ f = .translationFault e.1 .nonexistent := by
  induction l with
  | nil => intro s f h; cases h
  | cons e l ih =>
    intro s f h
    by_cases hp : e.1.toNat < s.params.physWords
    · have hq : physStore s e.1 e.2 = .ok (s.physWrite e.1 e.2) := physStore_ok.mpr ⟨hp, rfl⟩
      simp only [sintranWrites, hq, ok_bind] at h
      obtain ⟨e', he, hw⟩ := ih h
      exact ⟨e', List.mem_cons_of_mem _ he, hw⟩
    · have hi : installed s e.1 = .error (.translationFault e.1 .nonexistent) := installed_error.mpr ⟨by omega, rfl⟩
      simp only [sintranWrites, physStore, hi, error_bind] at h
      cases h
      exact ⟨e, by simp, by omega, rfl⟩

/-- Words written by logical address from `addr` on: a byte changes only in a word that a write of the field reaches. -/
theorem writeField_ok {s : State} (l : List (Option Word)) : ∀ {addr : Word} {m m' : Memory}, writeField s l addr m = .ok m' →
    Rewritten m m' ∧ ∀ k : Nat, m'.readByte k ≠ m.readByte k →
      ∃ i, i < l.length ∧ ∃ pa, locate s (addr + BitVec.ofNat 16 i) .write = .ok pa ∧ k / 2 = pa.toNat := by
  induction l with
  | nil => rintro addr m m' h; cases h; exact ⟨.refl m, by simp⟩
  | cons e l ih =>
    intro addr m m' h
    cases e with
    | none =>
      obtain ⟨t, ht⟩ := ih h
      refine ⟨t, fun k hk => ?_⟩
      obtain ⟨i, hi, pa, hpa, e⟩ := ht k hk
      refine ⟨i + 1, by simpa using hi, pa, ?_, e⟩
      rwa [BitVec.ofNat_add, BitVec.add_comm (BitVec.ofNat 16 i), ← BitVec.add_assoc]
    | some v =>
      obtain ⟨pa, hpa, h⟩ := bind_ok.mp h
      obtain ⟨t, ht⟩ := ih h
      refine ⟨(rewritten_writeWord _ _ _).trans t, fun k hk => ?_⟩
      by_cases hc : (m.writeWord pa v).readByte k = m.readByte k
      · obtain ⟨i, hi, pb, hpb, e⟩ := ht k (by rwa [hc])
        refine ⟨i + 1, by simpa using hi, pb, ?_, e⟩
        rwa [BitVec.ofNat_add, BitVec.add_comm (BitVec.ofNat 16 i), ← BitVec.add_assoc]
      · refine ⟨0, by simp, pa, by simpa using hpa, ?_⟩
        by_contra hn
        exact hc (Memory.readByte_writeWord_ne (by constructor <;> omega))

theorem writeField_error {s : State} (l : List (Option Word)) : ∀ {addr : Word} {m : Memory} {f : Fault},
    writeField s l addr m = .error f → ∃ i, i < l.length ∧ locate s (addr + BitVec.ofNat 16 i) .write = .error f := by
  induction l with
  | nil => intro addr m f h; cases h
  | cons e l ih =>
    intro addr m f h
    cases e with
    | none =>
      obtain ⟨i, hi, e⟩ := ih h
      refine ⟨i + 1, by simpa using hi, ?_⟩
      rwa [BitVec.ofNat_add, BitVec.add_comm (BitVec.ofNat 16 i), ← BitVec.add_assoc]
    | some v =>
      cases hl : locate s addr .write with
      | error g =>
        simp only [writeField, hl, error_bind] at h
        cases h
        exact ⟨0, by simp, by simpa using hl⟩
      | ok pa =>
        simp only [writeField, hl, ok_bind] at h
        obtain ⟨i, hi, e⟩ := ih h
        refine ⟨i + 1, by simpa using hi, ?_⟩
        rwa [BitVec.ofNat_add, BitVec.add_comm (BitVec.ofNat 16 i), ← BitVec.add_assoc]

end Sys2Proof.Machine
end

