-- ==== Sys2Proof/Tests/Slice0.lean ====
section
/-! SUPPORT. Tests of single steps, decode tests, and for each statement a concrete state that meets its hypotheses. The words of
the decode tests are put together by hand from the formats of 30_encoding.md (R91 to R104, bases R108 to R110). The expected
values of the step tests are those of the vectors of 95_test_vectors.md section 2, and of the worked examples in the rule of
the instruction. -/

namespace Sys2Proof.Tests

open Sys2Proof.Machine

/-- Registers all zero, P at 001000₈. -/
def z : Regs := { Regs.zero with p := 0o1000 }

/-- A physical word. -/
def word (s : State) (pa : Nat) : Word := s.mem.readWord (BitVec.ofNat 24 pa)

/-- The reset state with registers `r` on level 0, the words `cells`, and the word `w` at the P of `r`. -/
def placed (w : Nat) (r : Regs) (cells : List (Nat × Nat)) : State :=
  { State.reset with
    regs := State.reset.regs.set 0 r
    mem := ((r.p.toNat, w) :: cells).foldl (fun m c => m.writeWord (BitVec.ofNat 24 c.1) (BitVec.ofNat 16 c.2)) [] }

/-- The state after one step, if there is one. -/
def after (s : State) : Option State :=
  match step s with
  | .next t => some t
  | _ => none

/-- The decoder reads the instruction `i` from the word `w`. -/
abbrev reads (w : Nat) (i : Instr) : Prop := decodeTableWord 16 w = some i

/-- The 32-bit floating format. -/
def float32 (s : State) : State := { s with params := { s.params with float48 := false } }

/-- The same registers on level `n`, which becomes the current one. -/
def onLevel (n : Level) (s : State) : State := { s.setLv n s.cur with pil := n }

/-- The register block of the vectors of `LRB`. -/
def registerBlock : List (Nat × Nat) :=
  [(0o2000, 0o100), (0o2001, 1), (0o2002, 2), (0o2003, 3), (0o2004, 4), (0o2005, 5), (0o2006, 0o177504), (0o2007, 6)]

/-- The next state of an outcome. -/
def nextOf (o : Host.Outcome State Fault Refusal) : Option State :=
  match o with
  | .next t => some t
  | _ => none

/-- The state the witnesses start from. -/
def ready : State := State.reset

/-- 2^16 words installed. -/
def small (s : State) : State := { s with params := { s.params with physWords := 2 ^ 16 } }

/-- 512 words installed. -/
def tiny (s : State) : State := { s with params := { s.params with physWords := 512 } }

/-- No word installed. -/
def absent (s : State) : State := { s with params := { s.params with physWords := 0 } }

/-- The ND-100. -/
def nd100 (s : State) : State := { s with params := { s.params with cpuModel := .nd100 } }

/-- Two byte descriptors of 4095 bytes from the last byte of memory on. -/
def longFields (s : State) : State :=
  s.setCur { s.cur with a := 0o177777, d := 0o107777, x := 0o177777, t := 0o107777 }

/-- X at a list element. -/
def linked (s : State) : State := s.setCur { s.cur with x := 0o1000 }

/-- X at a list element that links to itself. -/
def selfLinked : State :=
  placed 0o140300 { z with p := 0o400, x := 0o1000, b := 0o177000 } [(0o1000, 0o1000)]

/-- P - 1. -/
def direct : MemOperand := { x := false, i := false, b := false, disp := 0o377 }

/-- The word at P. -/
def indirect : MemOperand := { x := false, i := true, b := false, disp := 0 }

/-- Other opcode values: the other base of `SRB` (R110, D32), and `TSET` and `LASB` in words that are unassigned by default. -/
def movedOpcodes : Opcodes := { Config.defaultOpcodes with srb := 0o152402, tset := 0o140100, lasb := 0o143701 }

/-- A machine with those opcode values. -/
def moved (s : State) : State := { s with params := { s.params with opcodes := movedOpcodes } }

/-- 512 words installed, P at one of them. -/
def tinyAt (p : Word) : State := (tiny ready).setCur { ready.cur with p := p }

/-- The byte field of two bytes that begins in the right byte of the last of 512 installed words. -/
def lastByte : State :=
  (tiny ready).setCur { ready.cur with a := 0o777, d := 0o100002, x := 0o777, t := 0o100002 }

/-- The fault of an outcome. -/
def faultOf (o : Host.Outcome State Fault Refusal) : Option Fault :=
  match o with
  | .fault f => some f
  | _ => none

/-- The refusal of an outcome. -/
def refusalOf (o : Host.Outcome State Fault Refusal) : Option Refusal :=
  match o with
  | .refused r => some r
  | _ => none

/-! ## Decoding: one word of every row of the opcode table; the six assembler names of `RADD` words decode as `RADD` -/

theorem test_decode_memory_reference :
    reads 0o2005 (.stz { x := true, i := false, b := false, disp := 0o5 }) ∧
    reads 0o5177 (.sta { x := false, i := true, b := false, disp := 0o177 }) ∧
    reads 0o10600 (.stt { x := false, i := false, b := true, disp := 0o200 }) ∧
    reads 0o17377 (.stx { x := true, i := true, b := false, disp := 0o377 }) ∧
    reads 0o22421 (.std { x := true, i := false, b := true, disp := 0o21 }) ∧
    reads 0o25403 (.ldd { x := false, i := true, b := true, disp := 0o3 }) ∧
    reads 0o33404 (.stf { x := true, i := true, b := true, disp := 0o4 }) ∧
    reads 0o34002 (.ldf { x := false, i := false, b := false, disp := 0o2 }) ∧
    reads 0o42005 (.min { x := true, i := false, b := false, disp := 0o5 }) ∧
    reads 0o45177 (.lda { x := false, i := true, b := false, disp := 0o177 }) ∧
    reads 0o50600 (.ldt { x := false, i := false, b := true, disp := 0o200 }) ∧
    reads 0o57377 (.ldx { x := true, i := true, b := false, disp := 0o377 }) ∧
    reads 0o62421 (.add { x := true, i := false, b := true, disp := 0o21 }) ∧
    reads 0o65403 (.sub { x := false, i := true, b := true, disp := 0o3 }) ∧
    reads 0o73404 (.and { x := true, i := true, b := true, disp := 0o4 }) ∧
    reads 0o74002 (.ora { x := false, i := false, b := false, disp := 0o2 }) ∧
    reads 0o102005 (.fad { x := true, i := false, b := false, disp := 0o5 }) ∧
    reads 0o105177 (.fsb { x := false, i := true, b := false, disp := 0o177 }) ∧
    reads 0o110600 (.fmu { x := false, i := false, b := true, disp := 0o200 }) ∧
    reads 0o117377 (.fdv { x := true, i := true, b := false, disp := 0o377 }) ∧
    reads 0o122421 (.mpy { x := true, i := false, b := true, disp := 0o21 }) ∧
    reads 0o125403 (.jmp { x := false, i := true, b := true, disp := 0o3 }) ∧
    reads 0o137404 (.jpl { x := true, i := true, b := true, disp := 0o4 }) := by decide

theorem test_decode_byte_operand :
    reads 0o130352 (.jap 0o352) ∧
    reads 0o130405 (.jan 0o5) ∧
    reads 0o131200 (.jaz 0o200) ∧
    reads 0o131577 (.jaf 0o177) ∧
    reads 0o132377 (.jpc 0o377) ∧
    reads 0o132752 (.jnc 0o352) ∧
    reads 0o133005 (.jxz 0o5) ∧
    reads 0o133600 (.jxn 0o200) ∧
    reads 0o151177 (.wait 0o177) ∧
    reads 0o151777 (.nlz 0o377) ∧
    reads 0o152352 (.dnz 0o352) ∧
    reads 0o153005 (.mon 0o5) ∧
    reads 0o170200 (.sab 0o200) ∧
    reads 0o170577 (.saa 0o177) ∧
    reads 0o171377 (.sat 0o377) ∧
    reads 0o171752 (.sax 0o352) ∧
    reads 0o172005 (.aab 0o5) ∧
    reads 0o172600 (.aaa 0o200) ∧
    reads 0o173177 (.aat 0o177) ∧
    reads 0o173777 (.aax 0o377) := by decide

theorem test_decode_skip :
    reads 0o142463 (.skp .lss .t .b) := by decide

theorem test_decode_fixed_1 :
    reads 0o140120 (.addd) ∧
    reads 0o140121 (.subd) ∧
    reads 0o140122 (.comd) ∧
    reads 0o140123 (.tset) ∧
    reads 0o140124 (.pack) ∧
    reads 0o140125 (.upack) ∧
    reads 0o140126 (.shde) ∧
    reads 0o140127 (.rdus) ∧
    reads 0o140130 (.bfill) ∧
    reads 0o140131 (.movb) ∧
    reads 0o140132 (.movbf) ∧
    reads 0o140133 (.versn) ∧
    reads 0o140134 (.init) ∧
    reads 0o140135 (.entr) ∧
    reads 0o140136 (.leave) ∧
    reads 0o140137 (.eleav) ∧
    reads 0o140300 (.setpt) ∧
    reads 0o140301 (.clept) ∧
    reads 0o140302 (.clnreent) ∧
    reads 0o140303 (.chreentpages) := by decide

theorem test_decode_fixed_2 :
    reads 0o140304 (.clepu) ∧
    reads 0o140500 (.wglob) ∧
    reads 0o140501 (.rglob) ∧
    reads 0o140502 (.inspl) ∧
    reads 0o140503 (.rempl) ∧
    reads 0o140504 (.cnrek) ∧
    reads 0o140505 (.clpt) ∧
    reads 0o140506 (.enpt) ∧
    reads 0o140507 (.rept) ∧
    reads 0o140510 (.lbit) ∧
    reads 0o140511 (.sbit) ∧
    reads 0o140512 (.lbitp) ∧
    reads 0o140513 (.sbitp) ∧
    reads 0o140514 (.lbytp) ∧
    reads 0o140515 (.sbytp) ∧
    reads 0o140516 (.tsetp) ∧
    reads 0o140517 (.rdusp) ∧
    reads 0o142700 (.geco) ∧
    reads 0o142200 (.lbyt) ∧
    reads 0o142600 (.sbyt) := by decide

theorem test_decode_fixed_3 :
    reads 0o143200 (.mix3) ∧
    reads 0o143500 (.lwcs) ∧
    reads 0o150400 (.opcom) ∧
    reads 0o150401 (.iof) ∧
    reads 0o150402 (.ion) ∧
    reads 0o150404 (.pof) ∧
    reads 0o150405 (.piof) ∧
    reads 0o150406 (.sex) ∧
    reads 0o150407 (.rex) ∧
    reads 0o150410 (.pon) ∧
    reads 0o150412 (.pion) ∧
    reads 0o150415 (.ioxt) ∧
    reads 0o150416 (.exam) ∧
    reads 0o150417 (.depo) := by decide

theorem test_decode_register_pair :
    reads 0o140657 (.exr .a .x) ∧
    reads 0o141257 (.rmpy .a .x) ∧
    reads 0o141657 (.rdiv .a .x) := by decide

theorem test_decode_delta :
    reads 0o140700 (.lasb 0o0) ∧
    reads 0o140711 (.sasb 0o1) ∧
    reads 0o140722 (.lacb 0o2) ∧
    reads 0o140733 (.sacb 0o3) ∧
    reads 0o140744 (.lxsb 0o4) ∧
    reads 0o140755 (.lxcb 0o5) ∧
    reads 0o140766 (.szsb 0o6) ∧
    reads 0o140777 (.szcb 0o7) ∧
    reads 0o143300 (.ldatx 0o0) ∧
    reads 0o143311 (.ldxtx 0o1) ∧
    reads 0o143322 (.lddtx 0o2) ∧
    reads 0o143333 (.ldbtx 0o3) ∧
    reads 0o143344 (.statx 0o4) ∧
    reads 0o143355 (.stztx 0o5) ∧
    reads 0o143366 (.stdtx 0o6) := by decide

theorem test_decode_block_move :
    reads 0o143105 (.movew 5) := by decide

theorem test_decode_identify :
    reads 0o143622 (.ident 0o22) := by decide

theorem test_decode_register_operation :
    reads 0o144163 (.swap false true .t .b) ∧
    reads 0o144663 (.rand true false .t .b) ∧
    reads 0o145163 (.rexo false true .t .b) ∧
    reads 0o145663 (.rora true false .t .b) ∧
    reads 0o147363 (.radd true false true true .t .b) ∧
    reads 0o146363 (.radd false false true true .t .b) ∧
    reads 0o146663 (.radd false true true false .t .b) ∧
    reads 0o146403 (.radd false true false false .code0 .b) ∧
    reads 0o146203 (.radd false false true false .code0 .b) ∧
    reads 0o146103 (.radd false false false true .code0 .b) ∧
    reads 0o146142 (.radd false false false true .l .p) := by decide

theorem test_decode_internal_register :
    reads 0o150001 (.tra 0o1) ∧
    reads 0o150107 (.trr 0o7) ∧
    reads 0o150206 (.mcl 0o6) ∧
    reads 0o150306 (.mst 0o6) := by decide

theorem test_decode_level :
    reads 0o152722 (.srb 10) ∧
    reads 0o152730 (.lrb 11) ∧
    reads 0o153543 (.irw 12 .b) ∧
    reads 0o153753 (.irr 13 .b) := by decide

theorem test_decode_shift :
    reads 0o154001 (.sht .arith 0o1) ∧
    reads 0o155277 (.shd .rot 0o77) ∧
    reads 0o156440 (.sha .zin 0o40) ∧
    reads 0o157604 (.sad .lin 0o4) := by decide

theorem test_decode_device :
    reads 0o162306 (.iot 0o2306) ∧
    reads 0o166306 (.iox 0o2306) := by decide

theorem test_decode_bit :
    reads 0o174050 (.bsetZro 5 .code0) ∧
    reads 0o174377 (.bsetOne 15 .x) ∧
    reads 0o174503 (.bsetBcm 8 .b) ∧
    reads 0o174625 (.bsetBac 2 .a) ∧
    reads 0o175050 (.bskpZro 5 .code0) ∧
    reads 0o175377 (.bskpOne 15 .x) ∧
    reads 0o175503 (.bskpBcm 8 .b) ∧
    reads 0o175625 (.bskpBac 2 .a) ∧
    reads 0o176050 (.bstc 5 .code0) ∧
    reads 0o176377 (.bsta 15 .x) ∧
    reads 0o176503 (.bldc 8 .b) ∧
    reads 0o176625 (.blda 2 .a) ∧
    reads 0o177050 (.banc 5 .code0) ∧
    reads 0o177377 (.band 15 .x) ∧
    reads 0o177503 (.borc 8 .b) ∧
    reads 0o177625 (.bora 2 .a) := by decide

/-! ## Single steps -/

theorem test_stz :
    ((after (placed 0o3 z [(0o1003, 0o177777)])).map fun t => word t 0o1003) = some 0o0 := by decide

theorem test_sta :
    ((after (placed 0o4002 { z with a := 0o123456 } [])).map fun t => word t 0o1002) = some 0o123456 := by decide

theorem test_stt :
    ((after (placed 0o10400 { z with b := 0o2000, t := 0o52525 } [])).map fun t =>
      word t 0o2000) = some 0o52525 := by decide

theorem test_stx :
    ((after (placed 0o14401 { z with b := 0o2000, x := 0o125252 } [])).map fun t => word t 0o2001) =
      some 0o125252 := by decide

theorem test_std :
    ((after (placed 0o20400 { z with d := 0o2, b := 0o2000, a := 0o1 } [])).map fun t =>
      (word t 0o2000, word t 0o2001)) =
      some (0o1, 0o2) ∧
    ((after (placed 0o20400 { z with d := 0o2, b := 0o177777, a := 0o1 } [])).map fun t =>
      (word t 0o0, word t 0o177777)) =
      some (0o2, 0o1) := by decide

theorem test_ldd :
    ((after (placed 0o24400 { z with b := 0o2000 } [(0o2000, 0o11), (0o2001, 0o22)])).map fun t => (t.cur.a, t.cur.d)) =
      some (0o11, 0o22) := by decide

theorem test_min :
    ((after (placed 0o40002 z [(0o1002, 0o7)])).map fun t => word t 0o1002) = some 0o10 ∧
    ((after (placed 0o40002 z [(0o1002, 0o77777)])).map fun t => (t.cur.sts, word t 0o1002)) =
      some (0o0, 0o100000) := by decide

theorem test_lda :
    ((after (placed 0o46377 z [(0o177777, 0o777)])).map fun t => t.cur.a) = some 0o777 ∧
    ((after (placed 0o44200 { z with p := 0o100 } [(0o177700, 0o1234)])).map fun t =>
      t.cur.a) = some 0o1234 := by decide

theorem test_ldt :
    ((after (placed 0o50001 z [(0o1001, 0o4321)])).map fun t => t.cur.t) = some 0o4321 := by decide

theorem test_ldx :
    ((after (placed 0o54001 z [(0o1001, 0o4321)])).map fun t => t.cur.x) = some 0o4321 := by decide

theorem test_add :
    ((after (placed 0o60001 { z with a := 0o177777 } [(0o1001, 0o1)])).map fun t => (t.cur.a, t.cur.sts)) =
      some (0o0, 0o100) ∧
    ((after (placed 0o60001 { z with a := 0o100000 } [(0o1001, 0o100000)])).map fun t => (t.cur.a, t.cur.sts)) =
      some (0o0, 0o160) := by decide

theorem test_sub :
    ((after (placed 0o64002 { z with a := 0o3 } [(0o1002, 0o1)])).map fun t =>
      (t.cur.a, t.cur.sts)) = some (0o2, 0o100) ∧
    ((after (placed 0o64002 { z with a := 0o100000 } [(0o1002, 0o1)])).map fun t => (t.cur.a, t.cur.sts)) =
      some (0o77777, 0o160) := by decide

theorem test_and :
    ((after (placed 0o70001 { z with sts := 0o160, a := 0o170360 } [(0o1001, 0o7417)])).map fun t =>
      (t.cur.a, t.cur.sts)) =
      some (0o0, 0o160) ∧
    ((after (placed 0o70001 { z with a := 0o177777 } [(0o1001, 0o52525)])).map fun t =>
      t.cur.a) = some 0o52525 := by decide

theorem test_ora :
    ((after (placed 0o74001 { z with sts := 0o160, a := 0o170000 } [(0o1001, 0o17)])).map fun t =>
      (t.cur.a, t.cur.sts)) =
      some (0o170017, 0o160) := by decide

theorem test_mpy :
    ((after (placed 0o122000 { z with a := 0o400, x := 0o2000 } [(0o2000, 0o200)])).map fun t => (t.cur.a, t.cur.sts)) =
      some (0o100000, 0o60) ∧
    ((after (placed 0o122000 { z with a := 0o100000, x := 0o2000 } [(0o2000, 0o1)])).map fun t => t.cur.sts) =
      some 0o60 := by decide

theorem test_jmp :
    ((after (placed 0o124000 z [])).map fun t => t.cur.p) = some 0o1000 ∧
    ((after (placed 0o125402 { z with b := 0o2000 } [(0o2002, 0o4000)])).map fun t =>
      t.cur.p) = some 0o4000 := by decide

theorem test_jpl :
    ((after (placed 0o135403 { z with b := 0o2000 } [(0o2003, 0o4000)])).map fun t => (t.cur.l, t.cur.p)) =
      some (0o1001, 0o4000) ∧
    ((after (placed 0o136000 { z with x := 0o3000 } [])).map fun t => (t.cur.l, t.cur.p)) =
      some (0o1001, 0o3000) := by decide

theorem test_jap :
    ((after (placed 0o130010 z [])).map fun t => t.cur.p) = some 0o1001 ∧
    ((after (placed 0o130010 { z with a := 0o1 } [])).map fun t => t.cur.p) = some 0o1010 := by decide

theorem test_jan :
    ((after (placed 0o130410 z [])).map fun t => t.cur.p) = some 0o1001 ∧
    ((after (placed 0o130410 { z with a := 0o100000 } [])).map fun t => t.cur.p) = some 0o1010 := by decide

theorem test_jaz :
    ((after (placed 0o131010 z [])).map fun t => t.cur.p) = some 0o1010 ∧
    ((after (placed 0o131177 { z with p := 0o177700 } [])).map fun t => t.cur.p) = some 0o77 := by decide

theorem test_jaf :
    ((after (placed 0o131410 z [])).map fun t => t.cur.p) = some 0o1001 ∧
    ((after (placed 0o131410 { z with a := 0o100000 } [])).map fun t => t.cur.p) = some 0o1010 := by decide

theorem test_jpc :
    ((after (placed 0o132376 { z with x := 0o177777 } [])).map fun t => t.cur.x) = some 0o0 ∧
    ((after (placed 0o132376 z [])).map fun t => (t.cur.x, t.cur.p)) = some (0o1, 0o776) := by decide

theorem test_jnc :
    ((after (placed 0o132776 { z with x := 0o177776 } [])).map fun t => (t.cur.x, t.cur.p)) = some (0o177777, 0o776) ∧
    ((after (placed 0o132776 { z with x := 0o77777 } [])).map fun t => (t.cur.x, t.cur.p)) =
      some (0o100000, 0o776) := by decide

theorem test_jxz :
    ((after (placed 0o133376 z [])).map fun t => t.cur.p) = some 0o776 ∧
    ((after (placed 0o133376 { z with x := 0o100000 } [])).map fun t => t.cur.p) = some 0o1001 := by decide

theorem test_jxn :
    ((after (placed 0o133776 z [])).map fun t => t.cur.p) = some 0o1001 ∧
    ((after (placed 0o133776 { z with x := 0o100000 } [])).map fun t => t.cur.p) = some 0o776 := by decide

theorem test_skp :
    ((after (placed 0o140041 { z with d := 0o5, l := 0o5 } [])).map fun t => t.cur.p) = some 0o1002 ∧
    ((after (placed 0o140415 { z with d := 0o177777, a := 0o77777 } [])).map fun t =>
      t.cur.p) = some 0o1001 := by decide

theorem test_entr :
    ((after (placed 0o140135 { z with p := 0o2000, b := 0o10200, l := 0o1001 }
      [(0o2001, 0o10), (0o10002, 0o10020), (0o10003, 0o17777)])).map fun t =>
      (t.cur.b, word t 0o10020, word t 0o10021, word t 0o10022, word t 0o10023, t.cur.p)) =
      some (0o10220, 0o1002, 0o10200, 0o10230, 0o17777, 0o2003) := by decide

theorem test_wglob :
    ((after (placed 0o140500 { z with d := 0o4, a := 0o40000, t := 0o3 } [])).map fun t =>
      (t.stbnk, t.stsrt, t.cmbnk)) =
      some (0o3, 0o40000, 0o4) := by decide

theorem test_lbit :
    ((after (placed 0o140510 { z with a := 0o21, x := 0o3000 } [(0o3001, 0o2)])).map fun t => t.cur.sts) =
      some 0o4 := by decide

theorem test_sbit :
    ((after (placed 0o140511 { z with sts := 0o4, x := 0o3000 } [])).map fun t => (t.cur.sts, word t 0o3000)) =
      some (0o4, 0o1) := by decide

theorem test_lbitp :
    ((after (placed 0o140512 { z with a := 0o20, t := 0o2, x := 0o100 } [(0o400101, 0o1)])).map fun t => t.cur.sts) =
      some 0o4 := by decide

theorem test_sbitp :
    ((after (placed 0o140513 { z with a := 0o3, x := 0o100 } [(0o100, 0o17)])).map fun t => (t.cur.sts, word t 0o100)) =
      some (0o0, 0o7) := by decide

theorem test_lbytp :
    ((after (placed 0o140514 { z with d := 0o1, t := 0o200, x := 0o1 } [(0o200200, 0o40502)])).map fun t => t.cur.a) =
      some 0o102 := by decide

theorem test_sbytp :
    ((after (placed 0o140515 { z with a := 0o101, t := 0o200 } [])).map fun t =>
      word t 0o200) = some 0o40400 := by decide

theorem test_tsetp :
    ((after (placed 0o140516 { z with x := 0o1000, p := 0o400 } [])).map fun t => (t.cur.a, word t 0o1000)) =
      some (0o0, 0o177777) := by decide

theorem test_rdusp :
    ((after (placed 0o140517 { z with t := 0o1, x := 0o10 } [(0o200010, 0o123456)])).map fun t => t.cur.a) =
      some 0o123456 := by decide

theorem test_exr :
    ((after (placed 0o140650 { z with a := 0o14177, x := 0o123456 } [])).map fun t => word t 0o1177) = some 0o123456 ∧
    ((after (placed 0o140650 { z with sts := 0o100, a := 0o175260 } [])).map fun t => (t.cur.sts, t.cur.p)) =
      some (0o100, 0o1002) := by decide

theorem test_lasb :
    ((after ({ placed 0o140720 { z with b := 0o40010 } [(0o640012, 0o123)] with stbnk := 0o3 })).map fun t => t.cur.a) =
      some 0o123 := by decide

theorem test_sasb :
    ((after ({ placed 0o140701 { z with b := 0o40010, a := 0o777 } [] with stbnk := 0o3 })).map fun t =>
      word t 0o640010) =
      some 0o777 := by decide

theorem test_lacb :
    ((after ({ placed 0o140772 { z with b := 0o100 } [(0o1000107, 0o177777)] with cmbnk := 0o4 })).map fun t =>
      t.cur.a) =
      some 0o177777 := by decide

theorem test_sacb :
    ((after ({ placed 0o140713 { z with b := 0o100, a := 0o5 } [] with cmbnk := 0o4 })).map fun t => word t 0o1000101) =
      some 0o5 := by decide

theorem test_lxsb :
    ((after ({ placed 0o140734 { z with b := 0o40000 } [(0o640003, 0o42)] with stbnk := 0o3 })).map fun t => t.cur.x) =
      some 0o42 := by decide

theorem test_lxcb :
    ((after ({ placed 0o140705 { z with b := 0o100 } [(0o1000100, 0o300)] with cmbnk := 0o4 })).map fun t => t.cur.x) =
      some 0o300 := by decide

theorem test_szsb :
    ((after ({ placed 0o140756 { z with b := 0o40000 } [(0o640005, 0o177777)] with stbnk := 0o3 })).map fun t =>
      word t 0o640005) =
      some 0o0 := by decide

theorem test_szcb :
    ((after ({ placed 0o140717 { z with b := 0o177777 } [(0o1000000, 0o177777)] with cmbnk := 0o4 })).map fun t =>
      word t 0o1000000) =
      some 0o0 := by decide

theorem test_rmpy :
    ((after (placed 0o141257 { z with a := 0o177776, x := 0o3 } [])).map fun t => (t.cur.a, t.cur.d)) =
      some (0o177777, 0o177772) ∧
    ((after (placed 0o141257 { z with a := 0o100000, x := 0o100000 } [])).map fun t =>
      t.cur.a) = some 0o40000 := by decide

theorem test_lbyt :
    ((after (placed 0o142200 { z with t := 0o2000, x := 0o4 } [(0o2002, 0o40502)])).map fun t => t.cur.a) = some 0o101 ∧
    ((after (placed 0o142200 { z with t := 0o2000, x := 0o177777 } [(0o101777, 0o377)])).map fun t => t.cur.a) =
      some 0o377 := by decide

theorem test_sbyt :
    ((after (placed 0o142600 { z with a := 0o123101, t := 0o2000, x := 0o4 } [(0o2002, 0o177777)])).map fun t =>
      word t 0o2002) =
      some 0o40777 ∧
    ((after (placed 0o142600 { z with a := 0o123101, t := 0o2000, x := 0o5 } [(0o2002, 0o177777)])).map fun t =>
      word t 0o2002) =
      some 0o177501 := by decide

theorem test_mix3 :
    ((after (placed 0o143200 { z with a := 0o5 } [])).map fun t => t.cur.x) = some 0o14 ∧
    ((after (placed 0o143200 z [])).map fun t => t.cur.x) = some 0o177775 := by decide

theorem test_ldatx :
    ((after (placed 0o143320 { z with x := 0o2000 } [(0o2002, 0o164000)])).map fun t => t.cur.a) = some 0o164000 ∧
    ((after (placed 0o143330 { z with t := 0o2, x := 0o1000 } [(0o401003, 0o55)])).map fun t => t.cur.a) =
      some 0o55 := by decide

theorem test_ldxtx :
    ((after (placed 0o143301 { z with x := 0o2000 } [(0o2000, 0o2010)])).map fun t =>
      t.cur.x) = some 0o2010 := by decide

theorem test_lddtx :
    ((after (placed 0o143322 { z with x := 0o2000 } [(0o2002, 0o164000), (0o2003, 0o123)])).map fun t =>
      (t.cur.a, t.cur.d)) =
      some (0o164000, 0o123) := by decide

theorem test_ldbtx :
    ((after (placed 0o143313 { z with x := 0o2000 } [(0o2001, 0o5)])).map fun t => t.cur.b) = some 0o177012 ∧
    ((after (placed 0o143313 { z with x := 0o2000 } [(0o2001, 0o100377)])).map fun t =>
      t.cur.b) = some 0o177776 := by decide

theorem test_statx :
    ((after (placed 0o143334 { z with a := 0o7, x := 0o2000 } [])).map fun t => word t 0o2003) = some 0o7 := by decide

theorem test_stztx :
    ((after (placed 0o143375 { z with x := 0o2000 } [(0o2007, 0o55)])).map fun t =>
      word t 0o2007) = some 0o0 := by decide

theorem test_stdtx :
    ((after (placed 0o143306 { z with d := 0o2, a := 0o1, x := 0o2000 } [])).map fun t =>
      (word t 0o2000, word t 0o2001)) =
      some (0o1, 0o2) := by decide

theorem test_swap :
    ((after (placed 0o144051 { z with d := 0o2, a := 0o1 } [])).map fun t => (t.cur.a, t.cur.d)) = some (0o2, 0o1) ∧
    ((after (placed 0o144055 { z with a := 0o5 } [])).map fun t => t.cur.p) = some 0o1001 := by decide

theorem test_rand :
    ((after (placed 0o144447 { z with sts := 0o160, l := 0o170360, x := 0o7777 } [])).map fun t =>
      (t.cur.x, t.cur.sts)) =
      some (0o360, 0o160) ∧
    ((after (placed 0o144663 { z with b := 0o123456, t := 0o377 } [])).map fun t =>
      t.cur.b) = some 0o123400 := by decide

theorem test_rexo :
    ((after (placed 0o145063 { z with b := 0o177777, t := 0o52525 } [])).map fun t => t.cur.b) = some 0o125252 ∧
    ((after (placed 0o145055 { z with a := 0o123456 } [])).map fun t => t.cur.a) = some 0o0 := by decide

theorem test_rora :
    ((after (placed 0o145463 { z with b := 0o170000, t := 0o17 } [])).map fun t => t.cur.b) = some 0o170017 ∧
    ((after (placed 0o145755 { z with a := 0o377 } [])).map fun t => t.cur.a) = some 0o177400 := by decide

theorem test_radd :
    ((after (placed 0o147065 { z with sts := 0o100, a := 0o1, t := 0o2 } [])).map fun t => (t.cur.a, t.cur.sts)) =
      some (0o4, 0o0) ∧
    ((after (placed 0o146050 { z with a := 0o177777 } [])).map fun t => t.cur.sts) = some 0o0 := by decide

theorem test_copy :
    ((after (placed 0o146173 { z with sts := 0o160, b := 0o7777, x := 0o1234 } [])).map fun t => (t.cur.b, t.cur.sts)) =
      some (0o1234, 0o40) ∧
    ((after (placed 0o146755 z [])).map fun t => t.cur.sts) = some 0o100 := by decide

theorem test_rsub :
    ((after (placed 0o146663 { z with b := 0o10, t := 0o3 } [])).map fun t =>
      (t.cur.b, t.cur.sts)) = some (0o5, 0o100) ∧
    ((after (placed 0o146663 { z with b := 0o3, t := 0o10 } [])).map fun t => (t.cur.b, t.cur.sts)) =
      some (0o177773, 0o0) := by decide

theorem test_rinc :
    ((after (placed 0o146405 { z with a := 0o177777 } [])).map fun t => (t.cur.a, t.cur.sts)) = some (0o0, 0o100) ∧
    ((after (placed 0o146405 { z with a := 0o77777 } [])).map fun t => (t.cur.a, t.cur.sts)) =
      some (0o100000, 0o60) := by decide

theorem test_rdcr :
    ((after (placed 0o146203 z [])).map fun t => (t.cur.b, t.cur.sts)) = some (0o177777, 0o0) ∧
    ((after (placed 0o146203 { z with b := 0o100000 } [])).map fun t => (t.cur.b, t.cur.sts)) =
      some (0o77777, 0o160) := by decide

theorem test_rclr :
    ((after (placed 0o146105 { z with sts := 0o160, a := 0o123456 } [])).map fun t => (t.cur.a, t.cur.sts)) =
      some (0o0, 0o40) := by decide

theorem test_exit :
    ((after (placed 0o146142 { z with sts := 0o120, l := 0o4321 } [])).map fun t => (t.cur.sts, t.cur.p)) =
      some (0o0, 0o4321) := by decide

theorem test_depo :
    ((after (placed 0o150417 { z with d := 0o100, a := 0o1, t := 0o52525 } [])).map fun t => word t 0o200100) =
      some 0o52525 := by decide

theorem test_sht :
    ((after (placed 0o154001 { z with t := 0o140001 } [])).map fun t => (t.cur.t, t.cur.sts)) = some (0o100002, 0o200) ∧
    ((after (placed 0o156001 { z with t := 0o120003 } [])).map fun t => (t.cur.t, t.cur.sts)) =
      some (0o40006, 0o200) := by decide

theorem test_shd :
    ((after (placed 0o154277 { z with d := 0o100001 } [])).map fun t => (t.cur.d, t.cur.sts)) = some (0o140000, 0o200) ∧
    ((after (placed 0o156277 { z with d := 0o100001 } [])).map fun t => (t.cur.d, t.cur.sts)) =
      some (0o40000, 0o200) := by decide

theorem test_sha :
    ((after (placed 0o157477 { z with sts := 0o200, a := 0o2 } [])).map fun t => (t.cur.a, t.cur.sts)) =
      some (0o100001, 0o0) ∧
    ((after (placed 0o154420 { z with a := 0o1 } [])).map fun t =>
      (t.cur.a, t.cur.sts)) = some (0o0, 0o200) := by decide

theorem test_sad :
    ((after (placed 0o154620 { z with d := 0o100002, a := 0o1 } [])).map fun t => (t.cur.a, t.cur.d, t.cur.sts)) =
      some (0o100002, 0o0, 0o200) ∧
    ((after (placed 0o156660 { z with d := 0o1, a := 0o123456 } [])).map fun t => (t.cur.a, t.cur.d, t.cur.sts)) =
      some (0o0, 0o123456, 0o0) := by decide

theorem test_sab :
    ((after (placed 0o170352 z [])).map fun t => t.cur.b) = some 0o177752 := by decide

theorem test_saa :
    ((after (placed 0o170410 { z with sts := 0o160, a := 0o177777 } [])).map fun t => (t.cur.a, t.cur.sts)) =
      some (0o10, 0o160) := by decide

theorem test_sat :
    ((after (placed 0o171020 { z with t := 0o177777 } [])).map fun t => t.cur.t) = some 0o20 := by decide

theorem test_sax :
    ((after (placed 0o171773 z [])).map fun t => t.cur.x) = some 0o177773 := by decide

theorem test_aab :
    ((after (placed 0o172352 { z with b := 0o30 } [])).map fun t =>
      (t.cur.b, t.cur.sts)) = some (0o2, 0o100) := by decide

theorem test_aaa :
    ((after (placed 0o172401 { z with a := 0o77777 } [])).map fun t => (t.cur.a, t.cur.sts)) = some (0o100000, 0o60) ∧
    ((after (placed 0o172400 { z with sts := 0o160, a := 0o1234 } [])).map fun t => t.cur.sts) = some 0o40 := by decide

theorem test_aat :
    ((after (placed 0o173013 { z with t := 0o177770 } [])).map fun t => (t.cur.t, t.cur.sts)) =
      some (0o3, 0o100) := by decide

theorem test_aax :
    ((after (placed 0o173405 { z with x := 0o77775 } [])).map fun t => (t.cur.x, t.cur.sts)) =
      some (0o100002, 0o60) := by decide

theorem test_bsetZro :
    ((after (placed 0o174050 { z with sts := 0o60 } [])).map fun t => t.cur.sts) = some 0o20 ∧
    ((after (placed 0o174112 z [])).map fun t => t.cur.p) = some 0o0 := by decide

theorem test_bsetOne :
    ((after (placed 0o174220 z [])).map fun t => t.cur.sts) = some 0o4 ∧
    ((after (placed 0o174202 z [])).map fun t => t.cur.p) = some 0o1001 := by decide

theorem test_bsetBcm :
    ((after (placed 0o174460 { z with sts := 0o100 } [])).map fun t => t.cur.sts) = some 0o0 ∧
    ((after (placed 0o174407 { z with x := 0o4 } [])).map fun t => t.cur.x) = some 0o5 := by decide

theorem test_bsetBac :
    ((after (placed 0o174616 { z with sts := 0o4 } [])).map fun t =>
      (t.cur.t, t.cur.sts)) = some (0o2, 0o4) := by decide

theorem test_bskpOne :
    ((after (placed 0o175375 { z with a := 0o77777 } [])).map fun t => t.cur.p) = some 0o1001 ∧
    ((after (placed 0o175230 { z with sts := 0o10 } [])).map fun t => (t.cur.sts, t.cur.p)) =
      some (0o10, 0o1002) := by decide

theorem test_bskpBcm :
    ((after (placed 0o175401 { z with d := 0o1 } [])).map fun t => (t.cur.sts, t.cur.p)) = some (0o0, 0o1002) ∧
    ((after (placed 0o175420 { z with sts := 0o4 } [])).map fun t => t.cur.sts) = some 0o4 := by decide

theorem test_bskpBac :
    ((after (placed 0o175674 { z with sts := 0o4, l := 0o200 } [])).map fun t =>
      (t.cur.sts, t.cur.p)) = some (0o4, 0o1002) ∧
    ((after (placed 0o175620 z [])).map fun t => (t.cur.sts, t.cur.p)) = some (0o0, 0o1002) := by decide

theorem test_bstc :
    ((after (placed 0o176025 z [])).map fun t => (t.cur.a, t.cur.sts)) = some (0o4, 0o4) ∧
    ((after (placed 0o176020 { z with sts := 0o4 } [])).map fun t => t.cur.sts) = some 0o4 := by decide

theorem test_bsta :
    ((after (placed 0o176260 { z with sts := 0o4 } [])).map fun t => t.cur.sts) = some 0o100 ∧
    ((after (placed 0o176220 { z with sts := 0o4 } [])).map fun t => t.cur.sts) = some 0o0 := by decide

theorem test_bldc :
    ((after (placed 0o176575 { z with sts := 0o4, a := 0o100000 } [])).map fun t => t.cur.sts) = some 0o0 := by decide

theorem test_blda :
    ((after (placed 0o176660 { z with sts := 0o100 } [])).map fun t => t.cur.sts) = some 0o104 := by decide

theorem test_banc :
    ((after (placed 0o177001 { z with sts := 0o4, d := 0o1 } [])).map fun t => t.cur.sts) = some 0o0 ∧
    ((after (placed 0o177001 { z with sts := 0o4 } [])).map fun t => t.cur.sts) = some 0o4 := by decide

theorem test_band :
    ((after (placed 0o177230 { z with sts := 0o4 } [])).map fun t => t.cur.sts) = some 0o0 := by decide

theorem test_borc :
    ((after (placed 0o177467 z [])).map fun t => t.cur.sts) = some 0o4 ∧
    ((after (placed 0o177467 { z with x := 0o100 } [])).map fun t => t.cur.sts) = some 0o0 := by decide

theorem test_bora :
    ((after (placed 0o177613 { z with b := 0o2 } [])).map fun t => t.cur.sts) = some 0o4 ∧
    ((after (placed 0o177777 { z with x := 0o100000 } [])).map fun t => t.cur.sts) = some 0o4 := by decide
/-- 0 words 001010₈ to 001012₈ into T, A, D; in the 32-bit format two words into A, D (95_test_vectors.md 2.15). -/
theorem test_ldf :
    ((after (placed 0o34010 z [(0o1010, 0o40001), (0o1011, 0o100000)])).map fun t => (t.cur.t, t.cur.a, t.cur.d)) =
      some (0o40001, 0o100000, 0) ∧
    ((after (float32 (placed 0o34010 { z with t := 5 } [(0o1010, 0o40001), (0o1011, 0o100000)]))).map fun t =>
      (t.cur.t, t.cur.a, t.cur.d)) = some (5, 0o40001, 0o100000) := by decide

theorem test_stf :
    ((after (placed 0o30400 { z with b := 0o2000, t := 1, a := 2, d := 3 } [])).map fun t =>
      (word t 0o2000, word t 0o2001, word t 0o2002)) = some (1, 2, 3) := by decide

theorem test_rdus :
    ((after (placed 0o140127 { z with t := 0o1000, p := 0o400 } [(0o1000, 0o123456)])).map fun t => t.cur.a) =
      some 0o123456 := by decide

theorem test_tset :
    ((after (placed 0o140123 { z with t := 0o1000, p := 0o400 } [])).map fun t => (t.cur.a, word t 0o1000)) =
      some (0, 0o177777) ∧
    ((after (placed 0o140123 { z with t := 0o1000, p := 0o400 } [(0o1000, 0o177777)])).map fun t =>
      (t.cur.a, word t 0o1000)) = some (0o177777, 0o177777) := by decide

theorem test_bfill :
    ((after (placed 0o140130 { z with x := 0o2000, t := 3, a := 0o40 } [(0o2001, 0o125252)])).map fun t =>
      (word t 0o2000, word t 0o2001, t.cur.x, t.cur.t)) = some (0o20040, 0o20252, 0o2001, 0o100000) := by decide

theorem test_movb :
    ((after (placed 0o140131 { z with p := 0o400, a := 0o1000, d := 2, x := 0o2000, t := 0o100002 }
      [(0o1000, 0o40502), (0o2000, 0o125252), (0o2001, 0o125252)])).map fun t =>
      (word t 0o2000, word t 0o2001, t.cur.a, t.cur.d, t.cur.x, t.cur.t)) =
      some (0o125101, 0o41252, 0o1001, 0, 0o2001, 0o100002) ∧
    ((after (placed 0o140131 { z with p := 0o400, a := 0o1000, d := 3, x := 0o1000, t := 0o100003 }
      [(0o1000, 0o40502), (0o1001, 0o41504)])).map fun t => (word t 0o1000, word t 0o1001)) =
      some (0o40501, 0o41103) := by decide

theorem test_movbf :
    ((after (placed 0o140132 { z with p := 0o400, a := 0o1000, d := 3, x := 0o1000, t := 0o100003 }
      [(0o1000, 0o40502), (0o1001, 0o41504)])).map fun t =>
      (word t 0o1000, word t 0o1001, t.cur.a, t.cur.d, t.cur.x, t.cur.t)) =
      some (0o40501, 0o40501, 0o1001, 0o100000, 0o1002, 3) := by decide

/-- The flag word's reading is open (R413), so the continuation is not tested. -/
theorem test_init :
    ((after (placed 0o140134 { z with p := 0o3000, l := 0o101 }
      [(0o3001, 0o10000), (0o3002, 0o7777), (0o3005, 0o20)])).map fun t =>
      (t.cur.b, word t 0o10000, word t 0o10001, word t 0o10002, word t 0o10003)) =
      some (0o10200, 0o102, 0, 0o10220, 0o17777) := by decide

theorem test_leave :
    ((after (placed 0o140136 { z with b := 0o10220 } [(0o10020, 0o1002), (0o10021, 0o10200)])).map fun t =>
      (t.cur.b, t.cur.p)) = some (0o10200, 0o1002) := by decide

theorem test_eleav :
    ((after (placed 0o140137 { z with b := 0o10220, a := 0o42 } [(0o10020, 0o1002), (0o10021, 0o10200)])).map fun t =>
      (t.cur.b, t.cur.p, word t 0o10020, word t 0o10005)) = some (0o10200, 0o1001, 0o1001, 0o42) := by decide

/-- Program P3 of 95_test_vectors.md: the two page-table entries of its chain. -/
theorem test_setpt :
    ((after (placed 0o140300 { z with p := 0o400, x := 0o1000 }
      [(0o1000, 0o1010), (0o1001, 5), (0o1002, 0o164000), (0o1003, 0o123), (0o1011, 0o77), (0o1012, 0o4000),
        (0o1013, 0o456)])).map fun t =>
      (t.cur.x, word t 0o177012, word t 0o177013, word t 0o177176, word t 0o177177)) =
      some (0, 0o160000, 0o123, 0, 0o456) := by decide

/-- R212: an entry in use goes back to its element and is cleared; an entry of 0 is passed over. -/
theorem test_clept :
    ((after (placed 0o140301 { z with p := 0o400, x := 0o1000 }
      [(0o1000, 0o1010), (0o1001, 5), (0o1011, 0o77), (0o1012, 0o4000), (0o177012, 0o160000)])).map fun t =>
      (t.cur.x, word t 0o1002, word t 0o177012, word t 0o1012)) = some (0, 0o160000, 0, 0o4000) := by decide

theorem test_rglob :
    ((after { placed 0o140501 z [] with stbnk := 3, stsrt := 0o40000, cmbnk := 4 }).map fun t =>
      (t.cur.t, t.cur.a, t.cur.d)) = some (3, 0o40000, 4) := by decide

theorem test_movew :
    ((after (placed 0o143100 { z with p := 0o400, d := 0o1000, t := 0o2000, l := 3 }
      [(0o1000, 0o11), (0o1001, 0o22), (0o1002, 0o33)])).map fun t =>
      (word t 0o2000, word t 0o2002, t.cur.d, t.cur.t, t.cur.l)) = some (0o11, 0o33, 0o1003, 0o2003, 0) ∧
    ((after (placed 0o143110 { z with a := 1, d := 0o177777, t := 0o100, l := 2 }
      [(0o377777, 7), (0o400000, 9)])).map fun t => (word t 0o100, word t 0o101, t.cur.a, t.cur.d, t.cur.x)) =
      some (7, 9, 2, 1, 0) := by decide

theorem test_lwcs : ((after (placed 0o143500 z [])).map fun t => t.cur.p) = some 0o1001 := by decide

/-- R276: code 22₈ is level 12; the answer is the host's. -/
theorem test_ident :
    ((after (placed 0o143622 z [])).map fun t => t.ioTrace.map fun e => match e with
      | .ident n _ => n
      | _ => 0) = some [12] := by decide

theorem test_iox :
    ((after (placed 0o164305 { z with a := 0o101 } [])).map fun t => (t.ioTrace, t.cur.a)) =
      some ([.write 0o305 0o101], 0o101) ∧
    ((after (placed 0o164306 z [])).map fun t => t.ioTrace.map fun e => match e with
      | .read dev _ => dev
      | _ => 0) = some [0o306] := by decide

theorem test_ioxt :
    ((after (placed 0o150415 { z with t := 0o100001, a := 7 } [])).map fun t => t.ioTrace) =
      some [.write 0o100001 7] := by decide

theorem test_iot : faultOf (step (placed 0o161234 z [])) = some (.illegalInstruction 0o161234) := by decide

theorem test_geco : refusalOf (step (placed 0o142700 z [])) = some (.unmodelledInstruction "GECO") := by decide

theorem test_versn :
    ((after (placed 0o140133 { z with a := 0o3400 } [])).map fun t => (t.cur.p, t.draws)) = some (0o1001, 1) ∧
    faultOf (step { placed 0o140133 z [] with params := { Config.defaultParams with cpuModel := .nd100 } }) =
      some (.illegalInstruction 0o140133) := by decide

theorem test_opcom :
    ((after (placed 0o150400 z [])).map fun t => (t.run, t.cur.p)) = some (.off .opcom, 0o1001) := by decide

/-- Stop with the interrupt system off; give up level 3 with it on. -/
theorem test_wait :
    ((after (placed 0o151005 z [])).map fun t => (t.run, t.cur.p)) = some (.off (.wait 5), 0o1001) ∧
    ((after { onLevel 3 (placed 0o151000 z []) with ioni := true, pid := 0o12, pie := 0o12 }).map fun t =>
      (t.pid, t.cur.p, (levelChange t).pil)) = some (2, 0o1001, 1) := by decide

theorem test_iof :
    ((after { onLevel 3 (placed 0o150401 z []) with ioni := true, pid := 8, pie := 8 }).map fun t => (t.ioni, t.pil)) =
      some (false, 3) := by decide

theorem test_ion :
    ((after { placed 0o150402 z [] with pid := 4, pie := 4 }).map fun t => (t.ioni, t.cur.p, (levelChange t).pil)) =
      some (true, 0o1001, 2) := by decide

/-- The switches of memory management: with PONI on the fetch is an open translation, so POF and PIOF are run by `exec`. -/
theorem test_memory_management_switches :
    ((nextOf (exec .pof { placed 0 z [] with poni := false })).map fun t => (t.poni, t.cur.p)) = some (false, 0o1001) ∧
    ((nextOf (exec .piof { placed 0 z [] with ioni := true })).map fun t => (t.poni, t.ioni)) = some (false, false) ∧
    ((nextOf (exec .pon (placed 0 z []))).map fun t => (t.poni, t.ioni)) = some (true, false) ∧
    ((nextOf (exec .pion (placed 0 z []))).map fun t => (t.poni, t.ioni)) = some (true, true) := by decide

theorem test_sex : ((after (placed 0o150406 z [])).map fun t => t.sexi) = some true := by decide

theorem test_rex : ((after { placed 0o150407 z [] with sexi := true }).map fun t => t.sexi) = some false := by decide

theorem test_exam :
    ((after (placed 0o150416 { z with a := 1, d := 0o100 } [(0o200100, 0o52525)])).map fun t => t.cur.t) =
      some 0o52525 := by decide

theorem test_mon :
    ((after (placed 0o153200 z [])).map fun t => ((t.lv 14).t, t.pid, t.cur.p)) = some (0o177600, 0o40000, 0o1001) ∧
    ((after { placed 0o153001 z [] with ioni := true, pie := 0o40000 }).map fun t =>
      (levelChange t).pil) = some 14 := by
  decide

theorem test_irr :
    ((after ((onLevel 3 (placed 0o153762 z [])).setLv 14 { z with p := 0o2000 })).map fun t => t.cur.a) = some 0o2000 ∧
    ((after (onLevel 3 (placed 0o153632 z []))).map fun t => t.cur.a) = some 0o1000 := by decide

theorem test_irw :
    ((after (onLevel 3 (placed 0o153503 { z with a := 0o1234 } []))).map fun t => (t.lv 8).b) = some 0o1234 ∧
    ((after (onLevel 3 (placed 0o153432 { z with a := 0o2000 } []))).map fun t => t.cur.p) = some 0o2000 := by decide

/-- Of the current level. The vector of 95_test_vectors.md prints 101400₈ for the STS word; R31, which its own row cites, sets
bit 12 too (log 29). -/
theorem test_srb :
    ((after { onLevel 3 (placed 0o152632 { z with x := 0o2000 } []) with ioni := true, pid := 8, pie := 8 }).map fun t =>
      (word t 0o2000, word t 0o2001, word t 0o2006)) = some (0o1001, 0o2000, 0o111400) := by decide

theorem test_lrb :
    ((after (onLevel 3 (placed 0o152760 { z with x := 0o2000 } registerBlock))).map fun t => t.lv 14) =
      some { sts := 0o104, d := 4, p := 0o100, b := 6, l := 5, a := 3, t := 2, x := 1 } ∧
    ((after (onLevel 3 (placed 0o152630 { z with x := 0o2000 } registerBlock))).map fun t => t.cur) =
      some { sts := 0o104, d := 4, p := 0o1001, b := 6, l := 5, a := 3, t := 2, x := 1 } := by decide

theorem test_bskpZro :
    ((after (placed 0o175065 { z with a := 0o100 } [])).map fun t => t.cur.p) = some 0o1001 ∧
    ((after (placed 0o175065 { z with a := 0o177677 } [])).map fun t => t.cur.p) = some 0o1002 := by decide

theorem test_rdiv :
    ((after (placed 0o141660 { z with d := 7, t := 2 } [])).map fun t => (t.cur.a, t.cur.d)) = some (3, 1) ∧
    ((after (placed 0o141660 { z with a := 0o177777, d := 0o177771, t := 2 } [])).map fun t => (t.cur.a, t.cur.d)) =
      some (0o177775, 0o177777) := by decide

theorem test_tra :
    ((after { onLevel 3 (placed 0o150001 { z with sts := 0o104 } []) with ioni := true, pid := 8, pie := 8 }).map fun t =>
      t.cur.a) = some 0o111504 ∧
    ((after { placed 0o150006 z [] with pid := 0o12 }).map fun t => t.cur.a) = some 0o12 := by decide

theorem test_trr :
    ((after (placed 0o150107 { z with a := 3 } [])).map fun t => t.pie) = some 3 ∧
    ((after (placed 0o150101 { z with a := 0o177400, sts := 0o377 } [])).map fun t => (t.cur.sts, t.ioni)) =
      some (0, false) := by decide

theorem test_mst :
    ((after { placed 0o150306 { z with a := 2 } [] with ioni := true, pie := 3, pid := 1 }).map fun t =>
      (t.pid, (levelChange t).pil)) = some (3, 1) := by decide

theorem test_mcl :
    ((after { placed 0o150206 { z with a := 2 } [] with pid := 3 }).map fun t => t.pid) = some 1 := by decide

theorem test_nlz : ((after (placed 0o151420 z [])).map fun t => t.cur.p) = some 0o1001 := by decide

/-! ## Ill-formed terms: each operand check refuses one, accepts its neighbour, and the step answers by name -/

theorem test_wf_sts_bit_above_7 :
    (Instr.bsetOne 8 .code0).wf = false ∧ (Instr.bsetOne 7 .code0).wf = true ∧ (Instr.bsetOne 8 .d).wf = true ∧
    faultOf (step (placed 0o174300 z [])) = some (.reservedOperand 0o174300 .stsBitAbove7) := by decide

theorem test_wf_tra :
    (Instr.tra 0o16).wf = false ∧ (Instr.tra 0o17).wf = true ∧
    faultOf (step (placed 0o150016 z [])) = some (.reservedOperand 0o150016 .traRegister) := by decide

theorem test_wf_trr :
    (Instr.trr 4).wf = false ∧ (Instr.trr 0o14).wf = false ∧ (Instr.trr 0o16).wf = false ∧ (Instr.trr 0).wf = true ∧
    faultOf (step (placed 0o150104 z [])) = some (.reservedOperand 0o150104 .trrRegister) := by decide

theorem test_wf_mst :
    (Instr.mst 2).wf = false ∧ (Instr.mst 7).wf = true ∧
    faultOf (step (placed 0o150302 z [])) = some (.reservedOperand 0o150302 .mstRegister) := by decide

theorem test_wf_mcl :
    (Instr.mcl 0).wf = false ∧ (Instr.mcl 1).wf = true ∧
    faultOf (step (placed 0o150200 z [])) = some (.reservedOperand 0o150200 .mclRegister) := by decide

theorem test_wf_ident :
    (Instr.ident 0).wf = false ∧ (Instr.ident 0o43).wf = true ∧
    faultOf (step (placed 0o143600 z [])) = some (.reservedOperand 0o143600 .identLevel) := by decide

theorem test_wf_exr :
    (Instr.exr .code0 .code0).wf = false ∧ (Instr.exr .p .code0).wf = false ∧ (Instr.exr .x .p).wf = true ∧
    faultOf (step (placed 0o140620 z [])) = some (.reservedOperand 0o140620 .exrRegister) := by decide

theorem test_wf_movew :
    (Instr.movew 0o11).wf = false ∧ (Instr.movew 0o10).wf = true ∧
    faultOf (step (placed 0o143111 z [])) = some (.illegalInstruction 0o143111) := by decide

theorem test_unassigned_words :
    faultOf (step (placed 0o154500 z [])) = some (.illegalInstruction 0o154500) ∧
    faultOf (step (placed 0o152761 z [])) = some (.illegalInstruction 0o152761) ∧
    faultOf (step (placed 0o140650 { z with a := 0o160000 } [])) = some (.illegalInstruction 0o160000) := by decide

/-- The opcode values are arguments (R107): the source's word of `SRB` is unassigned where the other base is taken. -/
theorem test_moved_opcodes :
    decodeWord movedOpcodes 0o152502 = .ok (.srb 8) ∧ encode movedOpcodes (.srb 8) = 0o152502 ∧
    decodeWord movedOpcodes 0o143731 = .ok (.lasb 3) ∧
    faultOf (step (moved (placed 0o152702 z []))) = some (.illegalInstruction 0o152702) ∧
    (after (moved (placed 0o140100 { z with t := 0o2000 } [(0o2000, 5)]))).map (fun t => (t.cur.a, word t 0o2000)) =
      some (5, 0o177777) := by decide

/-- 31 digits and a sign in eight words, three digits and a sign in one, an empty field in none; from the right byte on one byte
more; four ASCII digits and a sign in five bytes (R240, R243). -/
theorem test_decimal_field_words :
    (DecimalOperand.ofWords 0 0o37).words .bcd = 8 ∧ (DecimalOperand.ofWords 0 0o3).words .bcd = 1 ∧
    (DecimalOperand.ofWords 0 0o177740).words .bcd = 0 ∧ (DecimalOperand.ofWords 0 0o100003).words .bcd = 2 ∧
    (DecimalOperand.ofWords 0 0o4).words .ascii = 3 := by decide

theorem test_decimal_descriptor :
    DecimalOperand.ofWords 0o1234 0o122145 =
      { address := 0o1234, length := 5, point := 3, round := true, ascii := 0b100, right := true } := by decide

/-- A word that a parameter function writes outside installed memory is the fault, whatever it wrote before (R63, R85). -/
theorem test_parameter_function_writes :
    sintranWrites (tiny ready) [(0o777, 1), (0o1000, 2)] = .error (.translationFault 0o1000 .nonexistent) ∧
    writeField (tiny ready) [some 1, some 2] 0o777 [] = .error (.translationFault 0o1000 .nonexistent) ∧
    writeField (tiny ready) [some 1, none] 0o777 [] = .ok [(2 * 0o777 + 1, 1)] ∧
    decimalFault (tiny ready) { (default : DecimalEffect) with fault := some (0o1000, true) } =
      .error (.translationFault 0o1000 .nonexistent) ∧
    decimalFault ready { (default : DecimalEffect) with fault := some (0o1000, true) } = .ok () := by decide

theorem test_depo_outside_memory :
    faultOf (step (small (placed 0o150417 { z with a := 0o377 } []))) =
      some (.translationFault (BitVec.ofNat 24 0o77600000) .nonexistent) := by decide

theorem test_halted_machine :
    faultOf (step { placed 0 z [] with run := .off .opcom }) = some (.halted .opcom) := by decide

/-! ## Witnesses: a concrete state and operands that meet the hypotheses of each statement, clause by clause.
`ready` is the reset state, level 0, memory management off, all words installed; `small` installs 2^16 words only. -/

theorem ready_reads (a : Word) : memRead ready a = .ok (ready.mem.readWord (bankZero a)) :=
  memRead_bankZero rfl (by decide) a

theorem ready_locates (a : Word) (kind : Access) : locate ready a kind = .ok (bankZero a) :=
  locate_bankZero rfl (by decide) a kind

theorem ready_address (m : MemOperand) : ∃ ea, effAddr ready m = .ok ea := by
  unfold effAddr
  split
  · exact ⟨_, by rw [ready_reads]; rfl⟩
  · exact ⟨_, rfl⟩

/-- The hypotheses about privilege, memory and paging that most statements share. -/
theorem witness_ready : privOk ready = true ∧ ready.mem.wf = true ∧ ready.poni = false ∧ AllReady ready ∧
    BankZeroReady ready ∧ ready.params.float48 = true ∧ (float32 ready).params.float48 = false :=
  ⟨rfl, rfl, rfl, ⟨rfl, by decide⟩, ⟨rfl, by decide⟩, rfl, rfl⟩

/-- Opcode values other than the defaults that keep the rows apart. -/
theorem witness_DecodeInvertsEncode : movedOpcodes.wf = true := by decide +kernel

theorem witness_EncodeInvertsDecode : decodeWord movedOpcodes 0o175000 = .ok (.bskpZro 0 .code0) ∧
    decodeWord movedOpcodes 0o140100 = .ok .tset := ⟨rfl, rfl⟩

/-- First and last unassigned words of the map, and `VERSN` on the ND-100. -/
theorem witness_UnassignedWordsFault :
    (ready.run = .on ∧ fetch (beginStep (placed 0o140100 z [])) = .ok 0o140100 ∧
      unassignedWord Config.defaultOpcodes .nd110 0o140100 = true) ∧
    (fetch (beginStep (placed 0o163777 z [])) = .ok 0o163777 ∧
      unassignedWord Config.defaultOpcodes .nd110 0o163777 = true) ∧
    (unassignedWord Config.defaultOpcodes .nd100 0o140133 = true ∧
      unassignedWord Config.defaultOpcodes .nd110 0o140133 = false ∧ unassignedWord movedOpcodes .nd110 0o140100 = false) ∧
    (exrOk .a = true ∧
      unassignedWord Config.defaultOpcodes .nd110 ((placed 0 { z with a := 0o160000 } []).cur.operand .a) = true) := by
  refine ⟨⟨rfl, rfl, ?_⟩, ⟨rfl, ?_⟩, ?_, ?_⟩ <;> decide

theorem witness_StepRunsDecodedInstruction :
    ({ ready with run := .off .opcom } : State).run = .off .opcom ∧ ready.run = .on ∧
    fetch (beginStep (absent ready)) = .error (.translationFault 0 .nonexistent) ∧
    (fetch (beginStep (placed 0o140100 z [])) = .ok 0o140100 ∧
      decodeWord Config.defaultOpcodes 0o140100 = .error (.unassignedExtended 0o140100)) ∧
    (fetch (beginStep (placed 0o170405 z [])) = .ok 0o170405 ∧ decodeWord Config.defaultOpcodes 0o170405 = .ok (.saa 5)) :=
  ⟨rfl, rfl, rfl, ⟨rfl, rfl⟩, rfl, rfl⟩

theorem witness_LevelChangeSelectsHighest :
    ready.ioni = false ∧ ({ ready with ioni := true } : State).ioni = true ∧
    ((0o100001 : Word).getLsbD (0 : Level).toNat = true ∧ (0o100001 : Word).getLsbD (15 : Level).toNat = true) := by decide

theorem witness_HostEventsBetweenSteps :
    ((15 : Level) ∈ [10#4, 11#4, 12#4, 13#4, 15#4] ∧ (10 : Level) ∈ [10#4, 11#4, 12#4, 13#4, 15#4]) ∧
    (ready.mem.wf = true ∧ (BitVec.ofNat 24 (2 ^ 24 - 1)).toNat < ready.params.physWords) ∧
    ({ ready with gaps := [[.interrupt 12], []] } : State).gaps = [[.interrupt 12], []] ∧ ready.gaps = [] := by decide

theorem witness_StepKeepsSelectedLevel :
    (∃ t, exec (.saa 5) ready = .next t) ∧ ∃ t, step ready = .next t := ⟨⟨_, rfl⟩, _, rfl⟩

theorem witness_PidAndPieWriters : ∃ t, exec (.mon 1) ready = .next t ∧ t.pid = 0o40000 := ⟨_, rfl, rfl⟩

theorem witness_StepKeepsInv : ready.Inv ∧ ∃ t, step ready = .next t := ⟨⟨rfl, rfl⟩, _, rfl⟩

/-- An unprivileged instruction, and an `EXR` of one; `SBYT` changes a byte of memory. With memory management on `PrivOK` is
the spec's parameter function, of which nothing can be proved; the statement's other hypothesis does not need it. -/
theorem witness_UserModeIsolation :
    (∀ j, Runs ready .sbyt j → j.privileged = false) ∧
    (∃ t, exec .sbyt (placed 0o142600 { z with t := 0o2000, a := 0o101 } []) = .next t ∧
      t.mem.readByte (2 * 0o2000) ≠ (placed 0o142600 { z with t := 0o2000, a := 0o101 } []).mem.readByte (2 * 0o2000)) ∧
    (∀ j, Runs (placed 0o140650 { z with a := 0o153001 } []) (.exr .a .code0) j → j.privileged = false) ∧
    (∃ t, exec (.exr .a .code0) (placed 0o140650 { z with a := 0o153001 } []) = .next t) ∧
    privOk { ready with poni := true } = privOkPaging { ready with poni := true } := by
  refine ⟨?_, ⟨_, rfl, by decide⟩, ?_, ⟨_, rfl⟩, rfl⟩
  · rintro j (rfl | ⟨sr, dr, h, _⟩)
    · rfl
    · cases h
  · rintro j (rfl | ⟨sr, dr, h, hd⟩)
    · rfl
    · cases h
      have hm : decodeWord ready.params.opcodes ((placed 0o140650 { z with a := 0o153001 } []).cur.operand .a) = .ok (.mon 1) := rfl
      cases hm.symm.trans hd
      rfl

theorem witness_PrivilegedInstructionsNeedPrivilege :
    (Instr.wait 0).privileged = true ∧ (Instr.movew 8).privileged = true ∧ ready.poni = false ∧ privOk ready = true := by
  decide

theorem witness_ReservedOperandsFault :
    (8 ≤ (8 : BitVec 4).toNat ∧ 8 ≤ (15 : BitVec 4).toNat ∧ .bora 15 .code0 ∈ bitOperations 15 .code0) ∧
    privOk ready = true ∧ ((0 : BitVec 4) ≠ 1 ∧ (0 : BitVec 4) ≠ 6 ∧ (0 : BitVec 4) ≠ 7) ∧
    ((0o42 : BitVec 6) ≠ 0o04 ∧ (0o42 : BitVec 6) ≠ 0o11 ∧ (0o42 : BitVec 6) ≠ 0o22 ∧ (0o42 : BitVec 6) ≠ 0o43) := by decide

theorem witness_MemoryLaws : Memory.wf [(0, 1), (1, 2), (33554431, 9)] = true ∧ Memory.wf [] = true ∧
    (BitVec.ofNat 24 16777215 : PhysAddr) ≠ 0 ∧ (33554431 ≠ 2 * (0 : PhysAddr).toNat) := by decide

/-- The last word of 2^16 installed words and the first word beyond. -/
theorem witness_LogicalAccess :
    (ready.poni = false ∧ (0o177777 : Word).toNat < (small ready).params.physWords) ∧
    ((tiny ready).poni = false ∧ (tiny ready).params.physWords ≤ (0o1000 : Word).toNat ∧
      (0o777 : Word).toNat < (tiny ready).params.physWords) ∧
    ({ ready with poni := true } : State).poni = true ∧ memRead ready 0o177777 = .ok 0 ∧ fetch ready = .ok 0 :=
  ⟨by decide, by decide, rfl, rfl, rfl⟩

/-- Operand read, indirection faulting, operand faulting. -/
theorem witness_AddAndOr :
    (effAddr ready direct = .ok 0o177777 ∧ memRead ready 0o177777 = .ok 0) ∧
    effAddr (absent ready) indirect = .error (.translationFault 0 .nonexistent) ∧
    (effAddr (tiny ready) direct = .ok 0o177777 ∧
      memRead (tiny ready) 0o177777 = .error (.translationFault 0o177777 .nonexistent)) :=
  ⟨⟨rfl, rfl⟩, rfl, rfl, rfl⟩

/-- For the faults as in `witness_AddAndOr`. A word that is readable but not writable occurs only with memory management on, where
`Translate` decides; it is open, so nothing can show one, here and below. -/
theorem witness_SubtractMultiplyIncrement :
    effAddr ready direct = .ok 0o177777 ∧ memRead ready 0o177777 = .ok 0 ∧
    locate ready 0o177777 .write = .ok 0o177777 ∧ ready.mem.wf = true := ⟨rfl, rfl, rfl, rfl⟩

/-- For `BitStores`, `BitSkips` and `BitOperationsOnK`: the last STS bit, the last register bit, the first bit refused. -/
theorem witness_BitOperations :
    bitOperandOk 7 .code0 = true ∧ bitOperandOk 15 .x = true ∧ bitOperandOk 8 .code0 = false := by decide

theorem witness_ByteLoadAndStore :
    memRead ready (ready.cur.t + ready.cur.x >>> 1) = .ok 0 ∧
    locate ready (ready.cur.t + ready.cur.x >>> 1) .write = .ok 0 ∧ ready.mem.wf = true ∧ privOk ready = true ∧
    (bankAddr 0o377 0o177777).toNat < ready.params.physWords ∧
    memRead (absent ready) (ready.cur.t + ready.cur.x >>> 1) = .error (.translationFault 0 .nonexistent) ∧
    (privOk (absent ready) = true ∧ (absent ready).params.physWords ≤ (bankAddr 0 0).toNat) :=
  ⟨rfl, rfl, rfl, rfl, by decide, rfl, rfl, by decide⟩

/-- For `ByteFill` and `ByteMoves`: the longest field, at the last byte; and a field whose first byte is in reach and whose second is
not. -/
theorem witness_ByteBlocks :
    (BankZeroReady (longFields ready) ∧ (longFields ready).mem.wf = true ∧
      byteLength (longFields ready) (longFields ready).cur.t = 4095 ∧
      firstByte (longFields ready).cur.x (longFields ready).cur.t = 131071) ∧
    (∃ pr pw : Nat → PhysAddr, ∀ k, StoreReaches ready k (pr k) (pw k)) ∧
    (firstByte lastByte.cur.x lastByte.cur.t = 1023 ∧ byteLength lastByte lastByte.cur.t = 2 ∧
      StoreReaches lastByte 1023 511 511 ∧ locate lastByte (byteWord 1023) .read = .ok 511 ∧
      StoreFails lastByte 1024 (.translationFault 512 .nonexistent) ∧
      locate lastByte (byteWord 1024) .read = .error (.translationFault 512 .nonexistent)) :=
  ⟨⟨⟨rfl, by decide⟩, rfl, by decide, by decide⟩, ⟨_, _, fun _ => ⟨ready_locates _ _, ready_locates _ _⟩⟩,
    by decide, by decide, ⟨rfl, rfl⟩, rfl, .inl rfl, rfl⟩

/-- For `GlobalPointers`, `TableBankAccesses`, `BitArrays`, `ReadAndTestAndSet` and `PhysicalTransfers`: an address that is
installed, the first that is not. -/
theorem witness_PhysicalAddresses :
    privOk ready = true ∧ privOk (small ready) = true ∧ ready.mem.wf = true ∧
    (bankAddr 0o377 0o177777).toNat < ready.params.physWords ∧
    (bankAddr 0 0o177777).toNat < (small ready).params.physWords ∧
    (small ready).params.physWords ≤ (bankAddr 1 0).toNat ∧
    (privOk (tiny ready) = true ∧ (bankAddr 0 0o777).toNat < (tiny ready).params.physWords ∧
      (tiny ready).params.physWords ≤ (bankAddr 0 (0o777 + 1)).toNat) :=
  ⟨rfl, rfl, rfl, by decide, by decide, by decide, rfl, by decide, by decide⟩

theorem witness_BitArrays : memRead ready (ready.cur.x + ready.cur.a >>> 4) = .ok 0 ∧
    locate ready (ready.cur.x + ready.cur.a >>> 4) .write = .ok 0 ∧
    (privOk (absent ready) = true ∧
      memRead (absent ready) (ready.cur.x + ready.cur.a >>> 4) = .error (.translationFault 0 .nonexistent)) :=
  ⟨rfl, rfl, rfl, rfl⟩

theorem witness_ReadAndTestAndSet : memRead ready ready.cur.t = .ok 0 ∧ locate ready ready.cur.t .write = .ok 0 ∧
    memRead (absent ready) ready.cur.t = .error (.translationFault 0 .nonexistent) ∧
    locate (absent ready) ready.cur.t .write = .error (.translationFault 0 .nonexistent) := ⟨rfl, rfl, rfl, rfl⟩

theorem selfLinked_links : selfLinked.cur.x ≠ 0 := by decide

theorem selfLinked_loops : setptOnce selfLinked = .ok selfLinked := rfl

/-- A chain that ends at once, one that faults, and one that never ends: an element that links to itself. -/
theorem witness_PageTableLoops :
    (privOk ready = true ∧ ready.cur.x = 0 ∧ AllReady ready ∧ ready.mem.wf = true) ∧
    ((absent (linked ready)).cur.x ≠ 0 ∧
      setptOnce (absent (linked ready)) = .error (.translationFault 0o1002 .nonexistent)) ∧
    (privOk selfLinked = true ∧ ∃ chain : Nat → State, chain 0 = selfLinked ∧ (chain 65536).cur.x ≠ 0 ∧
      ∀ k, k < 65536 → (chain k).cur.x ≠ 0 ∧ setptOnce (chain k) = .ok (chain (k + 1))) := by
  refine ⟨⟨rfl, rfl, ⟨rfl, by decide⟩, rfl⟩, ⟨by decide, rfl⟩, rfl, fun _ => selfLinked, rfl, by decide, fun k _ => ?_⟩
  exact ⟨selfLinked_links, selfLinked_loops⟩

theorem witness_SintranContract : .rept ∈ uninterpretedSintran ∧ privOk ready = true ∧ AllReady ready :=
  ⟨by decide, rfl, rfl, by decide⟩

theorem witness_DecimalContract : Instr.shde ∈ [Instr.addd, .subd, .comd, .pack, .upack, .shde] ∧ BankZeroReady ready :=
  ⟨by decide, rfl, by decide⟩

/-- For `LoadsFromMemory` and `FloatingPoint`: operands of three and of two words, wrapping at the top of memory. -/
theorem witness_LoadsFromMemory :
    effAddr ready direct = .ok 0o177777 ∧ memRead ready 0o177777 = .ok 0 ∧ memRead ready (0o177777 + 1) = .ok 0 ∧
    memRead ready (0o177777 + 2) = .ok 0 ∧ effAddr (float32 ready) direct = .ok 0o177777 ∧
    memRead (float32 ready) (0o177777 + 1) = .ok 0 ∧
    effAddr (absent ready) indirect = .error (.translationFault 0 .nonexistent) ∧
    memRead (tiny ready) 0o177777 = .error (.translationFault 0o177777 .nonexistent) :=
  ⟨rfl, rfl, rfl, rfl, rfl, rfl, rfl, rfl⟩

/-- The second or third word of an operand beyond the last installed one, for loads and for stores. -/
theorem witness_OperandLeavesMemory :
    (effAddr (tinyAt 0o1000) direct = .ok 0o777 ∧ memRead (tinyAt 0o1000) 0o777 = .ok 0 ∧
      locate (tinyAt 0o1000) 0o777 .write = .ok 0o777 ∧
      memRead (tinyAt 0o1000) (0o777 + 1) = .error (.translationFault 0o1000 .nonexistent) ∧
      locate (tinyAt 0o1000) (0o777 + 1) .write = .error (.translationFault 0o1000 .nonexistent)) ∧
    (effAddr (tinyAt 0o777) direct = .ok 0o776 ∧ memRead (tinyAt 0o777) (0o776 + 1) = .ok 0 ∧
      locate (tinyAt 0o777) (0o776 + 1) .write = .ok 0o777 ∧ (tinyAt 0o777).params.float48 = true ∧
      memRead (tinyAt 0o777) (0o776 + 2) = .error (.translationFault 0o1000 .nonexistent) ∧
      locate (tinyAt 0o777) (0o776 + 2) .write = .error (.translationFault 0o1000 .nonexistent)) :=
  ⟨⟨rfl, rfl, rfl, rfl, rfl⟩, rfl, rfl, rfl, rfl, rfl, rfl⟩

theorem witness_StoresToMemory :
    effAddr ready direct = .ok 0o177777 ∧ locate ready 0o177777 .write = .ok 0o177777 ∧
    locate ready (0o177777 + 1) .write = .ok 0 ∧ locate ready (0o177777 + 2) .write = .ok 1 ∧ ready.mem.wf = true ∧
    effAddr (tiny ready) direct = .ok 0o177777 ∧
    locate (tiny ready) 0o177777 .write = .error (.translationFault 0o177777 .nonexistent) :=
  ⟨rfl, rfl, rfl, rfl, rfl, rfl, rfl⟩

/-- For `AddsInto` of `RegisterAdditions`: both cases of its premise. -/
theorem witness_RegisterAdditions : (true && true) = true ∧ (true && false) = false := by decide

/-- The last quotient a word holds, the first it does not, a divisor of zero. -/
theorem witness_RegisterProducts :
    ((2 : Word).toInt ≠ 0 ∧ outOfRange ((65535 : Int).tdiv (2 : Word).toInt) = false) ∧
    outOfRange ((65536 : Int).tdiv (2 : Word).toInt) = true ∧ (0 : Word).toInt = 0 := by decide

/-- For `ModeSwitches` and `InputOutput`: the hypothesis, and the four level codes. -/
theorem witness_InputOutput : privOk ready = true ∧
    ((0o43 : BitVec 6), (13 : Level)) ∈ [((0o04 : BitVec 6), (10 : Level)), (0o11, 11), (0o22, 12), (0o43, 13)] := by decide

/-- For `InternalRegisterTransfers`: register numbers next to the reserved ones. -/
theorem witness_InternalRegisterTransfers :
    privOk ready = true ∧ (0o17 : BitVec 4) ≠ 0o16 ∧
    ((3 : BitVec 4) ≠ 4 ∧ (3 : BitVec 4) ≠ 0o14 ∧ (3 : BitVec 4) ≠ 0o16) := ⟨rfl, by decide, by decide⟩

/-- For `InterLevelRegisters` and `RegisterBlocks`: the current and another level, a block that wraps. -/
theorem witness_RegisterBlocks :
    privOk ready = true ∧ (0 : Level) = ready.pil ∧ (15 : Level) ≠ ready.pil ∧ ready.mem.wf = true ∧
    (∃ w : Nat → Word, ∀ k, k < 8 → memRead ready (0o177775 + BitVec.ofNat 16 k) = .ok (w k)) ∧
    ∃ q : Nat → PhysAddr, ∀ k, k < 8 → locate ready (0o177775 + BitVec.ofNat 16 k) .write = .ok (q k) :=
  ⟨rfl, rfl, by decide, rfl, ⟨_, fun _ _ => ready_reads _⟩, _, fun _ _ => ready_locates _ _⟩

theorem witness_MonitorCall :
    ready.pil ≠ 14 ∧ (onLevel 14 ready).pil = 14 ∧
    (let s : State := { ready with ioni := true, pie := 0o40000 }
     s.ioni = true ∧ s.pie.getLsbD 14 = true ∧ (s.pid.getLsbD 15 && s.pie.getLsbD 15) = false) := by decide

theorem witness_IonPonAndLwcs : privOk ready = true ∧ ready.params.cpuModel = .nd110 ∧
    (nd100 ready).params.cpuModel = .nd100 ∧ privOk (nd100 ready) = true := ⟨rfl, rfl, rfl, rfl⟩

theorem witness_WaitAndOpcom : privOk ready = true ∧ ready.ioni = false ∧
    (let s : State := { ready with ioni := true }
     privOk s = true ∧ s.ioni = true ∧ s.pil = 0) ∧
    (let s : State := { onLevel 15 ready with ioni := true }
     privOk s = true ∧ s.ioni = true ∧ s.pil ≠ 0) := ⟨rfl, rfl, ⟨rfl, rfl, rfl⟩, rfl, rfl, by decide⟩

theorem witness_JumpAndLink : effAddr ready direct = .ok 0o177777 ∧
    effAddr (absent ready) indirect = .error (.translationFault 0 .nonexistent) := ⟨rfl, rfl⟩

theorem witness_SkipEffect : skipRelation .mgre 0o100000 0o77777 ∧ ¬skipRelation .gre 0o100000 0o77777 ∧
    ready.params.skpWritesSts = false ∧
    ({ ready with params := { ready.params with skpWritesSts := true } } : State).params.skpWritesSts = true := by
  refine ⟨?_, ?_, rfl, rfl⟩ <;> simp [skipRelation]

theorem witness_StackFrameEntry :
    ready.mem.wf = true ∧ ready.params.initModelled = true ∧ ready.params.stackTest = .exceedsSmax ∧
    ({ ready with params := { ready.params with initModelled := false } } : State).params.initModelled = false ∧
    (∃ v, memRead ready (ready.cur.b - 0o176) = .ok v) ∧ ∃ q, locate ready (0 - 0o200) .write = .ok q :=
  ⟨rfl, rfl, rfl, rfl, ⟨_, ready_reads _⟩, _, ready_locates _ _⟩

theorem witness_StackFrameExit :
    (∃ link, memRead ready (ready.cur.b - 0o200) = .ok link) ∧ (∃ prevb, memRead ready (ready.cur.b - 0o177) = .ok prevb) ∧
    (∃ q, locate ready (ready.cur.b - 0o200) .write = .ok q) ∧ ∃ q, locate ready (0 - 0o173) .write = .ok q :=
  ⟨⟨_, ready_reads _⟩, ⟨_, ready_reads _⟩, ⟨_, ready_locates _ _⟩, _, ready_locates _ _⟩

theorem witness_VersionAndStops : ready.params.cpuModel = .nd110 ∧ (nd100 ready).params.cpuModel = .nd100 := ⟨rfl, rfl⟩

/-- The longest move and the first that moves nothing, of the last type; the first type that is illegal; ends in reach and one that
is not. -/
theorem witness_WordBlockMove :
    ((8 : BitVec 6).toNat ≤ 8 ∧ 8 < (9 : BitVec 6).toNat) ∧ AllReady ready ∧ privOk ready = true ∧
    (placed 0 { z with l := 2048 } []).cur.l.toNat ≤ 2048 ∧ 2048 < (placed 0 { z with l := 2049 } []).cur.l.toNat ∧
    (decide (6 ≤ (4 : BitVec 6).toNat) = false ∧ decide ((4 : BitVec 6).toNat % 3 = 2) = false) ∧
    (∃ ends : Nat → PhysAddr, ∀ k, endWord ready 0 0 0 k .read = .ok (ends k)) ∧
    endWord ready 2 0o377 0o177777 1 .write = .ok 0 ∧
    endWord (tiny ready) 2 0 0o777 0 .read = .ok 0o777 ∧
    endWord (tiny ready) 2 0 0o777 1 .read = .error (.translationFault 0o1000 .nonexistent) :=
  ⟨by decide, ⟨rfl, by decide⟩, rfl, by decide, by decide, by decide, ⟨_, fun _ => ready_locates _ .read⟩, rfl, rfl, rfl⟩

theorem witness_ExecuteRegister :
    (RegField.a ≠ .code0 ∧ RegField.a ≠ .p) ∧
    decodeWord ready.params.opcodes ((placed 0 { z with a := 0o153001 } []).cur.operand .a) = .ok (.mon 1) ∧
    (∀ r1 r2, (.mon 1 : Instr) ≠ .exr r1 r2) ∧
    decodeWord ready.params.opcodes ((placed 0 { z with a := 0o140650 } []).cur.operand .a) = .ok (.exr .a .code0) ∧
    ((placed 0 { z with a := 0o170777 } []).cur.operand .a).toNat = 0o170400 + (0o377 : Byte).toNat :=
  ⟨by decide, rfl, fun _ _ => by simp, rfl, by decide⟩

end Sys2Proof.Tests
end

section
/-! PROOFS. The step: one equation per branch of `step`, in the order of its checks (R14, R467). -/

namespace Sys2Proof.Proofs

open Sys2Proof Sys2Proof.Machine

variable {s : State} {reason : HaltReason} {f : Fault} {w : Word}

theorem step_of_off (hoff : s.run = .off reason) : step s = .fault (.halted reason) := by
  simp only [step, hoff]

theorem step_of_fetch_error (hon : s.run = .on) (hfetch : fetch (beginStep s) = .error f) :
    step s = .fault f := by
  simp only [step, hon, hfetch]

theorem step_of_decode_error {e : DecodeError} (hon : s.run = .on) (hfetch : fetch (beginStep s) = .ok w)
    (hdecode : decodeWord s.params.opcodes w = .error e) :
    step s = .fault (.illegalInstruction w) := by
  simp only [step, hon, hfetch, hdecode]

theorem step_of_decode_ok {i : Instr} (hon : s.run = .on) (hfetch : fetch (beginStep s) = .ok w)
    (hdecode : decodeWord s.params.opcodes w = .ok i) :
    step s = exec i (beginStep s) := by
  simp only [step, hon, hfetch, hdecode]

/-- Settles O5: each clause is one branch of the step. -/
theorem stepRunsDecodedInstruction : Obligations.StepRunsDecodedInstruction := by
  unfold Obligations.StepRunsDecodedInstruction
  intro s
  refine ⟨fun _ => step_of_off, fun hon => ⟨?fetchFault, ?illegal, ?runs⟩⟩
  case fetchFault => exact fun _ => step_of_fetch_error hon
  case illegal => exact fun _ _ => step_of_decode_error hon
  case runs => exact fun _ _ => step_of_decode_ok hon

end Sys2Proof.Proofs
end

section
/-! PROOFS. The state after power-up (R55 to R57). -/

namespace Sys2Proof.Proofs

open Sys2Proof Sys2Proof.Machine

/-- A quiet host and an interrupt system that is off: the first step begins in the state of power-up. -/
theorem beginStep_reset : beginStep State.reset = State.reset := rfl

/-- Settles O10: no byte of memory is listed after power-up. -/
theorem invHoldsAtReset : Obligations.InvHoldsAtReset := ⟨reset_memory_wf, rfl⟩

/-- Settles O15: what R55 says of the fields, which the first step leaves as they are. -/
theorem powerUpSelectsLevelZero : Obligations.PowerUpSelectsLevelZero :=
  ⟨rfl, rfl, rfl, congrArg State.pil beginStep_reset⟩

end Sys2Proof.Proofs
end

section
/-! PROOFS. The transfers to and from the internal registers: TRA, TRR, MST, MCL (R40, R41, R370 to R373). -/

namespace Sys2Proof.Proofs

open Sys2Proof Sys2Proof.Machine

variable {s t : State} {n : BitVec 4}

/-- An instruction whose two checks pass ends in the state its meaning returns. -/
theorem completes_of_checks {i : Instr} {why : Reserved} {ok : Bool} {post : State → Prop}
    (hexec : exec i s = finish (do requirePrivilege s i; requireOperand s i why ok; return t))
    (hpriv : privOk s = true) (hoperand : ok = true) (hpost : post t) : Completes i s post := by
  have hprivilege : requirePrivilege s i = .ok () := requirePrivilege_of_ok hpriv
  have hchecked : requireOperand s i why ok = .ok () := requireOperand_ok.mpr hoperand
  exact .ok hexec (by simp only [hprivilege, hchecked, ok_bind, pure_ok]) hpost

theorem stsWord_eq_statusRead (s : State) : s.stsWord = statusRead s := rfl

/-- Where A is loaded, A of the next state names the value loaded. -/
theorem setsRegisters_loadA (s : State) (v : Word) :
    SetsRegisters s (s.setCur { s.cur.step with a := v })
      { s.cur with p := s.cur.p + 1, a := (s.setCur { s.cur.step with a := v }).cur.a } :=
  setsRegisters_of_eq (by simp)

theorem setsRegisters_traUnheld (s : State) :
    SetsRegisters s (traUnheld s) { s.cur with p := s.cur.p + 1, a := (traUnheld s).cur.a } := by
  rw [traUnheld, State.setCur_cur]
  exact setsRegisters_drawn s 1 _

theorem tra_completes (hpriv : privOk s = true) (hn : n ≠ 0o16) :
    Completes (.tra n) s fun t =>
      SetsRegisters s t { s.cur with p := s.cur.p + 1, a := t.cur.a } ∧
        (n = 1 → t.cur.a = statusRead s) ∧ (n = 6 → t.cur.a = s.pid) ∧ (n = 7 → t.cur.a = s.pie) := by
  refine completes_of_checks rfl hpriv (bne_iff_ne.mpr hn) ?_
  split
  case h_1 hreg =>
    obtain rfl : n = 1 := BitVec.eq_of_toNat_eq hreg
    exact ⟨setsRegisters_loadA s _, by simp [stsWord_eq_statusRead]⟩
  case h_2 hreg =>
    obtain rfl : n = 6 := BitVec.eq_of_toNat_eq hreg
    exact ⟨setsRegisters_loadA s _, by simp⟩
  case h_3 hreg =>
    obtain rfl : n = 7 := BitVec.eq_of_toNat_eq hreg
    exact ⟨setsRegisters_loadA s _, by simp⟩
  case h_4 hsts hpid hpie =>
    exact ⟨setsRegisters_traUnheld s, fun h => absurd (h ▸ rfl) hsts, fun h => absurd (h ▸ rfl) hpid,
      fun h => absurd (h ▸ rfl) hpie⟩

theorem trr_completes (hpriv : privOk s = true) (h4 : n ≠ 0o4) (h14 : n ≠ 0o14) (h16 : n ≠ 0o16) :
    Completes (.trr n) s fun t => SetsRegisters { s with
          pcr := if n = 3 then s.cur.a else s.pcr, iie := if n = 5 then s.cur.a else s.iie
          pid := if n = 6 then s.cur.a else s.pid, pie := if n = 7 then s.cur.a else s.pie } t
        { s.cur with p := s.cur.p + 1, sts := if n = 1 then s.cur.a.extractLsb' 0 8 else s.cur.sts } := by
  have hoperand : trrOk n = true := by
    simp only [trrOk, Bool.and_eq_true, bne_iff_ne]
    exact ⟨⟨h4, h14⟩, h16⟩
  refine completes_of_checks rfl hpriv hoperand ?_
  by_cases hsts : n = 1
  · subst hsts; exact setsRegisters_setCur s _
  by_cases hpcr : n = 3
  · subst hpcr; exact setsRegisters_setCur { s with pcr := s.cur.a } _
  by_cases hiie : n = 5
  · subst hiie; exact setsRegisters_setCur { s with iie := s.cur.a } _
  by_cases hpid : n = 6
  · subst hpid; exact setsRegisters_setCur { s with pid := s.cur.a } _
  by_cases hpie : n = 7
  · subst hpie; exact setsRegisters_setCur { s with pie := s.cur.a } _
  simp only [hsts, hpcr, hiie, hpid, hpie, if_false]
  split
  case h_1 hreg => exact absurd (BitVec.eq_of_toNat_eq hreg) hsts
  case h_2 hreg => exact absurd (BitVec.eq_of_toNat_eq hreg) hpcr
  case h_3 hreg => exact absurd (BitVec.eq_of_toNat_eq hreg) hiie
  case h_4 hreg => exact absurd (BitVec.eq_of_toNat_eq hreg) hpid
  case h_5 hreg => exact absurd (BitVec.eq_of_toNat_eq hreg) hpie
  case h_6 => exact setsRegisters_advance s

theorem mst_completes (hpriv : privOk s = true) (hn : n = 1 ∨ n = 6 ∨ n = 7) :
    Completes (.mst n) s fun t => SetsRegisters { s with
          pid := if n = 6 then s.pid ||| s.cur.a else s.pid, pie := if n = 7 then s.pie ||| s.cur.a else s.pie } t
        { s.cur with
          p := s.cur.p + 1, sts := if n = 1 then s.cur.sts ||| s.cur.a.extractLsb' 0 8 else s.cur.sts } := by
  rcases hn with rfl | rfl | rfl
  · exact completes_of_checks rfl hpriv rfl (setsRegisters_setCur s _)
  · exact completes_of_checks rfl hpriv rfl (setsRegisters_setCur { s with pid := s.pid ||| s.cur.a } _)
  · exact completes_of_checks rfl hpriv rfl (setsRegisters_setCur { s with pie := s.pie ||| s.cur.a } _)

theorem mcl_completes (hpriv : privOk s = true) (hn : n = 1 ∨ n = 6 ∨ n = 7) :
    Completes (.mcl n) s fun t => SetsRegisters { s with
          pid := if n = 6 then s.pid &&& ~~~s.cur.a else s.pid
          pie := if n = 7 then s.pie &&& ~~~s.cur.a else s.pie } t
        { s.cur with
          p := s.cur.p + 1, sts := if n = 1 then s.cur.sts &&& ~~~s.cur.a.extractLsb' 0 8 else s.cur.sts } := by
  rcases hn with rfl | rfl | rfl
  · exact completes_of_checks rfl hpriv rfl (setsRegisters_setCur s _)
  · exact completes_of_checks rfl hpriv rfl (setsRegisters_setCur { s with pid := s.pid &&& ~~~s.cur.a } _)
  · exact completes_of_checks rfl hpriv rfl (setsRegisters_setCur { s with pie := s.pie &&& ~~~s.cur.a } _)

/-- Settles O42, from one lemma for each of the four instructions. -/
theorem internalRegisterTransfers : Obligations.InternalRegisterTransfers := by
  unfold Obligations.InternalRegisterTransfers
  intro s hpriv
  exact ⟨fun _ => tra_completes hpriv, fun _ => trr_completes hpriv,
    fun _ hn => ⟨mst_completes hpriv hn, mcl_completes hpriv hn⟩⟩

end Sys2Proof.Proofs
end

section
/-! PROOFS. What no instruction writes: PIL (R34), and of the model's own fields the parameters and the schedule of the host's
events (logs 6 and 9). A meaning is a chain of checks and accesses that ends in updates of the state: one rule for each of these,
then every instruction by them, and the step at last. -/

namespace Sys2Proof.Proofs

open Sys2Proof Sys2Proof.Machine

/-- `t` is on the level of `s`, under its parameters and with its schedule of the host's events. -/
structure SameContext (s t : State) : Prop where
  pil    : t.pil = s.pil
  params : t.params = s.params
  gaps   : t.gaps = s.gaps

/-- A computation that can end only in the context of `s`. -/
def EndsInContext (s : State) (x : Except Fault State) : Prop := ∀ t, x = .ok t → SameContext s t

/-- An outcome whose next state, if there is one, is in the context of `s`. -/
def NextInContext (s : State) (o : Host.Outcome State Fault Refusal) : Prop := ∀ t, o = .next t → SameContext s t

section Rules

variable {s t : State} {f : Fault} {r : Refusal} {x : Except Fault State} {pa : PhysAddr} {v : Word}

/-! ## Updates of the state -/

theorem SameContext.trans {u : State} (h : SameContext s t) (h' : SameContext t u) : SameContext s u :=
  ⟨h'.pil.trans h.pil, h'.params.trans h.params, h'.gaps.trans h.gaps⟩

@[simp] theorem SameContext.refl : SameContext s s := ⟨rfl, rfl, rfl⟩

theorem sameContext_iff : SameContext s t ↔ t.pil = s.pil ∧ t.params = s.params ∧ t.gaps = s.gaps :=
  ⟨fun ⟨hpil, hparams, hgaps⟩ => ⟨hpil, hparams, hgaps⟩, fun ⟨hpil, hparams, hgaps⟩ => ⟨hpil, hparams, hgaps⟩⟩

@[simp] theorem sameContext_setLv {n : Level} {q : Regs} : SameContext s (t.setLv n q) ↔ SameContext s t := by
  simp [sameContext_iff]

@[simp] theorem sameContext_setCur {q : Regs} : SameContext s (t.setCur q) ↔ SameContext s t := by
  simp [sameContext_iff]

@[simp] theorem sameContext_advance : SameContext s t.advance ↔ SameContext s t := by
  simp [sameContext_iff]

@[simp] theorem sameContext_drawn {k : Nat} : SameContext s (t.drawn k) ↔ SameContext s t := by
  simp [sameContext_iff]

@[simp] theorem sameContext_traced {e : IoEvent} : SameContext s (t.traced e) ↔ SameContext s t := by
  simp [sameContext_iff]

@[simp] theorem sameContext_physWrite : SameContext s (t.physWrite pa v) ↔ SameContext s t := by
  simp [sameContext_iff]

/-- For the updates written as records: any other field may differ. -/
@[simp] theorem sameContext_mk {regs : Vector Regs 16} {pil : Level} {pid pie pcr iie stbnk stsrt cmbnk : Word}
    {ioni poni sexi : Bool} {mem : Memory} {run : Run} {ioTrace : List IoEvent} {gaps : List (List HostEvent)}
    {draws : Nat} {params : Params} :
    SameContext s ⟨regs, pil, pid, pie, ioni, poni, sexi, pcr, iie, stbnk, stsrt, cmbnk, mem, run, ioTrace, gaps, draws,
      params⟩ ↔ pil = s.pil ∧ params = s.params ∧ gaps = s.gaps := sameContext_iff

@[simp] theorem sameContext_halt {reason : HaltReason} : SameContext s (halt s reason) := by simp [halt]

@[simp] theorem sameContext_giveUpPriority : SameContext s (giveUpPriority s) := by simp [giveUpPriority]

@[simp] theorem sameContext_exchange {dev : Word} : SameContext s (exchange s dev) := by
  unfold exchange
  split <;> simp

@[simp] theorem sameContext_addRegs {adc ad1 cm1 cld : Bool} {sr dr : RegField} :
    SameContext s (addRegs adc ad1 cm1 cld sr dr s) := by
  unfold addRegs
  split <;> simp

@[simp] theorem sameContext_sintranRegisters {e : SintranEffect} : SameContext s (sintranRegisters s e) := by
  simp [sintranRegisters]

/-! ## Chains of checks and accesses -/

@[simp] theorem endsInContext_ok : EndsInContext s (.ok t) ↔ SameContext s t := by
  simp [EndsInContext]

@[simp] theorem endsInContext_error : EndsInContext s (.error f) := by
  simp [EndsInContext]

@[simp] theorem endsInContext_bind {α : Type} {y : Except Fault α} {g : α → Except Fault State} :
    EndsInContext s (y >>= g) ↔ ∀ a, y = .ok a → EndsInContext s (g a) := by
  cases y <;> simp

@[simp] theorem nextInContext_next : NextInContext s (.next t) ↔ SameContext s t := by
  simp [NextInContext]

@[simp] theorem nextInContext_fault : NextInContext s (.fault f) := by
  simp [NextInContext]

@[simp] theorem nextInContext_refused : NextInContext s (.refused r) := by
  simp [NextInContext]

@[simp] theorem nextInContext_finish : NextInContext s (finish x) ↔ EndsInContext s x := by
  cases x <;> simp

/-! ## Stores, loops, the words a parameter function writes -/

@[simp] theorem endsInContext_physStore (h : SameContext s t) : EndsInContext s (physStore t pa v) := by
  intro u hstore
  obtain ⟨_, rfl⟩ := physStore_ok.mp hstore
  exact sameContext_physWrite.mpr h

@[simp] theorem endsInContext_storeWord {addr : Word} (h : SameContext s t) : EndsInContext s (storeWord t addr v) := by
  intro u hstore
  obtain ⟨_, _, rfl⟩ := storeWord_ok.mp hstore
  exact sameContext_advance.mpr (sameContext_physWrite.mpr h)

theorem endsInContext_sintranWrites {l : List (PhysAddr × Word)} (h : SameContext s t) :
    EndsInContext s (sintranWrites t l) := by
  intro u hwrites
  obtain ⟨_, rfl⟩ := sintranWrites_ok l hwrites
  exact h.trans (by simp)

theorem endsInContext_runSintran (op : SintranOp) (i : Instr) (s : State) : EndsInContext s (runSintran op i s) := by
  simp only [runSintran, endsInContext_bind]
  exact fun _ _ _ _ => endsInContext_sintranWrites sameContext_sintranRegisters

/-- A loop whose passes stay in the context stays in it: by induction on the bound. -/
theorem endsInContext_loopUntilXZero {once : State → Except Fault State} (honce : ∀ s, EndsInContext s (once s)) (n : Nat) :
    ∀ s, EndsInContext s (loopUntilXZero once n s) := by
  induction n with
  | zero =>
    intro s
    simp only [loopUntilXZero]
    split <;> simp
  | succ n ih =>
    intro s
    simp only [loopUntilXZero]
    split
    · simp
    · simp only [endsInContext_bind]
      intro s' hpass u hrest
      exact (honce s s' hpass).trans (ih s' u hrest)

theorem endsInContext_setptOnce (s : State) : EndsInContext s (setptOnce s) := by
  simp [setptOnce]

/-- A pass of `CLEPT` stores only where the page-table word is not 0. -/
theorem endsInContext_cleptOnce (s : State) : EndsInContext s (cleptOnce s) := by
  simp only [cleptOnce, endsInContext_bind]
  intro w _ a _
  split
  · simp
  · simp [physStore_ok]

theorem endsInContext_moveBlock (ty : BitVec 6) (s : State) : EndsInContext s (moveBlock ty s) := by
  simp only [moveBlock]
  split <;> simp

end Rules

/-! ## Every instruction -/

theorem nextInContext_execSetpt (s : State) : NextInContext s (execSetpt s) := by
  simp only [execSetpt, nextInContext_finish, endsInContext_bind, pure_ok, endsInContext_ok, sameContext_advance]
  exact fun _ _ => endsInContext_loopUntilXZero endsInContext_setptOnce loopBound s

theorem nextInContext_execClept (s : State) : NextInContext s (execClept s) := by
  simp only [execClept, nextInContext_finish, endsInContext_bind, pure_ok, endsInContext_ok, sameContext_advance]
  exact fun _ _ => endsInContext_loopUntilXZero endsInContext_cleptOnce loopBound s

theorem nextInContext_execMovew (ty : BitVec 6) (s : State) : NextInContext s (execMovew ty s) := by
  simp only [execMovew, nextInContext_finish]
  split
  · simp [throw, throwThe, MonadExceptOf.throw]
  · split
    · exact endsInContext_bind.mpr fun _ _ => endsInContext_moveBlock ty s
    · exact endsInContext_moveBlock ty s

theorem nextInContext_execLwcs (s : State) : NextInContext s (execLwcs s) := by
  unfold execLwcs
  split
  · simp
  · split <;> simp

theorem nextInContext_execWait (n : Byte) (s : State) : NextInContext s (execWait n s) := by
  simp only [execWait, nextInContext_finish, endsInContext_bind, pure_ok, endsInContext_ok]
  intro _ _
  split
  · simp
  · split <;> simp

/-- The instructions by groups that end alike, in the order of the model's files. -/
theorem nextInContext_executed (i : Instr) (s : State) : NextInContext s (executed i s) := by
  cases i
  case saa | sab | sat | sax | aaa | aab | aat | aax =>
    simp [executed, execSaa, execSab, execSat, execSax, execAaa, execAab, execAat, execAax]
  case add | sub | and | ora | mpy => simp [executed, execAdd, execSub, execAnd, execOra, execMpy]
  case bsetZro | bsetOne | bsetBcm | bsetBac => simp [executed, execBsetZro, execBsetOne, execBsetBcm, execBsetBac]
  case bskpZro | bskpOne | bskpBcm | bskpBac => simp [executed, execBskpZro, execBskpOne, execBskpBcm, execBskpBac]
  case bstc | bsta | bldc | blda => simp [executed, execBstc, execBsta, execBldc, execBlda]
  case banc | band | borc | bora => simp [executed, execBanc, execBand, execBorc, execBora]
  case lbyt | sbyt | bfill | movb | movbf => simp [executed, execLbyt, execSbyt, execBfill, execMovb, execMovbf]
  case addd | subd | shde => simp [executed, execAddd, execSubd, execShde, runDecimal]
  case comd => simp [executed, execComd, runCompare]
  case pack | upack => simp [executed, execPack, execUpack, runConversion]
  case irr _ r => cases r <;> simp [executed, execIrr]
  case irw | srb | mon => simp [executed, execIrw, execSrb, execMon]
  case lrb =>
    simp only [executed, execLrb, nextInContext_finish, endsInContext_bind]
    intro _ _ _ _
    split <;> simp
  case iof | ion | pof | piof | pion | pon | rex | sex =>
    simp [executed, execIof, execIon, execPof, execPiof, execPion, execPon, execRex, execSex]
  case opcom => simp [executed, execOpcom]
  case wait n => exact nextInContext_execWait n s
  case ldf | stf | fad | fsb | fmu | fdv =>
    simp [executed, execLdf, execStf, execFad, execFsb, execFmu, execFdv, floatResult]
  case nlz | dnz =>
    simp only [executed, execNlz, execDnz]
    split <;> simp
  case iox | ioxt | iot | ident => simp [executed, execIox, execIoxt, execIot, execIdent]
  case tra | trr | mst | mcl =>
    simp only [executed, execTra, execTrr, execMst, execMcl, nextInContext_finish, endsInContext_bind]
    intro _ _ _ _
    split <;> simp [traUnheld]
  case jap | jan | jaz | jaf | jxz | jxn | jpc | jnc =>
    simp [executed, execJap, execJan, execJaz, execJaf, execJxz, execJxn, execJpc, execJnc]
  case jmp | jpl => simp [executed, execJmp, execJpl]
  case rdus | tset | exam | depo => simp [executed, execRdus, execTset, execExam, execDepo]
  case ldatx | ldxtx | ldbtx | lddtx => simp [executed, execLdatx, execLdxtx, execLdbtx, execLddtx]
  case statx | stztx | stdtx => simp [executed, execStatx, execStztx, execStdtx, physStore_ok]
  case radd | copy | rsub | rinc | rdcr | rclr | exit =>
    simp [executed, execRadd, execCopy, execRsub, execRinc, execRdcr, execRclr, execExit]
  case rand | rexo | rora | swap => simp [executed, execRand, execRexo, execRora, execSwap, logicRegs]
  case rdiv =>
    simp only [executed, execRdiv]
    split <;> simp
  case rmpy | mix3 => simp [executed, execRmpy, execMix3]
  case sht | shd | sha | sad => simp [executed, execSht, execShd, execSha, execSad]
  case wglob | rglob => simp [executed, execWglob, execRglob]
  case lbit | sbit | lbitp | sbitp => simp [executed, execLbit, execSbit, execLbitp, execSbitp, loadArrayBit]
  case lbytp | sbytp | rdusp | tsetp => simp [executed, execLbytp, execSbytp, execRdusp, execTsetp]
  case setpt => exact nextInContext_execSetpt s
  case clept => exact nextInContext_execClept s
  case clepu | chreentpages | clnreent | clpt | cnrek | enpt | inspl | rempl | rept =>
    exact nextInContext_finish.mpr (endsInContext_runSintran _ _ s)
  case lasb | lacb | lxsb | lxcb => simp [executed, execLasb, execLacb, execLxsb, execLxcb]
  case sasb | sacb | szsb | szcb => simp [executed, execSasb, execSacb, execSzsb, execSzcb]
  case skp => simp [executed, execSkp]
  case entr | leave | eleav => simp [executed, execEntr, execLeave, execEleav]
  case init =>
    simp only [executed, execInit]
    split <;> simp [initStack]
  case versn =>
    simp only [executed, execVersn]
    split <;> simp
  case geco => exact nextInContext_refused
  case lwcs => exact nextInContext_execLwcs s
  case movew ty => exact nextInContext_execMovew ty s
  case ldd | lda | ldt | ldx => simp [executed, execLdd, execLda, execLdt, execLdx]
  case std | min | sta | stt | stx | stz => simp [executed, execStd, execMin, execSta, execStt, execStx, execStz]
  case exr => simp [executed, nestedExr]

/-- `EXR` runs the instruction of its register, or ends in a fault. -/
theorem nextInContext_execExr (sr dr : RegField) (s : State) : NextInContext s (execExr sr dr s) := by
  unfold execExr
  split
  · simp
  · split
    · simp
    · exact nextInContext_executed _ s

/-- The dispatch and `EXR` give an instruction one meaning, `EXR` itself aside. -/
theorem exec_eq_executed {i : Instr} (h : ∀ sr dr, i ≠ .exr sr dr) (s : State) : exec i s = executed i s := by
  cases i with
  | exr sr dr => exact absurd rfl (h sr dr)
  | _ => rfl

theorem nextInContext_exec (i : Instr) (s : State) : NextInContext s (exec i s) := by
  by_cases h : ∃ sr dr, i = .exr sr dr
  · obtain ⟨sr, dr, rfl⟩ := h
    exact nextInContext_execExr sr dr s
  · rw [exec_eq_executed fun sr dr hi => h ⟨sr, dr, hi⟩]
    exact nextInContext_executed i s

/-! ## The step -/

/-- A step that answers a next state has executed an instruction in the state the gap and the level change gave. -/
theorem exec_of_step_next {s t : State} (h : step s = .next t) : ∃ i, exec i (beginStep s) = .next t := by
  cases hrun : s.run with
  | off reason => cases (step_of_off hrun).symm.trans h
  | on =>
    cases hfetch : fetch (beginStep s) with
    | error f => cases (step_of_fetch_error hrun hfetch).symm.trans h
    | ok w =>
      cases hdecode : decodeWord s.params.opcodes w with
      | error e => cases (step_of_decode_error hrun hfetch hdecode).symm.trans h
      | ok i => exact ⟨i, (step_of_decode_ok hrun hfetch hdecode).symm.trans h⟩

theorem beginStep_params (s : State) : (beginStep s).params = s.params := by
  rw [beginStep, levelChange_eq, applyGap_eq]

theorem beginStep_gaps (s : State) : (beginStep s).gaps = s.gaps.tail := by
  rw [beginStep, levelChange_eq, applyGap_eq]

/-- Settles O8: the instruction of the step stays on the level that the level change selected. -/
theorem stepKeepsSelectedLevel : Obligations.StepKeepsSelectedLevel := by
  refine ⟨fun i s t hexec => ?instruction, fun s t hstep => ?step⟩
  case instruction => exact sameContext_iff.mp (nextInContext_exec i s t hexec)
  case step =>
    obtain ⟨i, hexec⟩ := exec_of_step_next hstep
    obtain ⟨hpil, hparams, hgaps⟩ := nextInContext_exec i (beginStep s) t hexec
    exact ⟨hpil, hparams.trans (beginStep_params s), hgaps.trans (beginStep_gaps s)⟩

end Sys2Proof.Proofs
end

section
/-! PROOFS. Memory as an array of words, and the addresses that reach it (R60 to R63, R70, R463). -/

namespace Sys2Proof.Proofs

open Sys2Proof Sys2Proof.Machine

/-! ## The canonical form is unique (log 1) -/

section CanonicalForm

variable {n a b k : Nat} {v w : Byte} {m m' : Memory}

theorem readByte_cons_self : Memory.readByte ((a, v) :: m) a = v := by
  simp [Memory.readByte]

theorem readByte_cons_ne (h : k ≠ a) : Memory.readByte ((a, v) :: m) k = m.readByte k := by
  rw [Memory.readByte, if_neg h.symm]

theorem eq_nil_of_readByte_eq_zero (hw : Memory.wfFrom n m = true) (hzero : ∀ k, m.readByte k = 0) : m = [] := by
  cases m with
  | nil => rfl
  | cons c m =>
    obtain ⟨_, hv, _⟩ := Memory.wfFrom_cons.mp hw
    exact absurd (readByte_cons_self.symm.trans (hzero c.1)) hv

/-- The first cell's value is not 0, so no list that reads the same begins after it. -/
theorem first_le_of_readByte_eq (hw : Memory.wfFrom n ((a, v) :: m) = true)
    (hw' : Memory.wfFrom k ((b, w) :: m') = true)
    (h : ∀ k, Memory.readByte ((a, v) :: m) k = Memory.readByte ((b, w) :: m') k) : b ≤ a := by
  obtain ⟨_, hv, _⟩ := Memory.wfFrom_cons.mp hw
  obtain ⟨_, hrest⟩ := Memory.wfFrom_cons.mp hw'
  by_contra hlt
  have hbelow : Memory.readByte ((b, w) :: m') a = 0 :=
    Memory.readByte_below (Memory.wfFrom_cons.mpr ⟨le_refl b, hrest⟩) (by omega)
  exact hv (readByte_cons_self.symm.trans ((h a).trans hbelow))

/-- Lists that read the same after equal first cells: at the first address and below it nothing is listed. -/
theorem readByte_tail_eq (hw : Memory.wfFrom (a + 1) m = true) (hw' : Memory.wfFrom (a + 1) m' = true)
    (h : ∀ k, Memory.readByte ((a, v) :: m) k = Memory.readByte ((a, w) :: m') k) (k : Nat) :
    m.readByte k = m'.readByte k := by
  by_cases hk : k = a
  · rw [Memory.readByte_below hw (by omega), Memory.readByte_below hw' (by omega)]
  · rw [← readByte_cons_ne hk, h k, readByte_cons_ne hk]

theorem eq_of_readByte_eq (hw : Memory.wfFrom n m = true) (hw' : Memory.wfFrom n m' = true)
    (h : ∀ k, m.readByte k = m'.readByte k) : m = m' := by
  induction m generalizing n m' with
  | nil => exact (eq_nil_of_readByte_eq_zero hw' fun k => (h k).symm).symm
  | cons c m ih =>
    obtain ⟨a, v⟩ := c
    cases m' with
    | nil => exact eq_nil_of_readByte_eq_zero hw h
    | cons c' m' =>
      obtain ⟨b, w⟩ := c'
      obtain rfl : a = b :=
        le_antisymm (first_le_of_readByte_eq hw' hw fun k => (h k).symm) (first_le_of_readByte_eq hw hw' h)
      obtain rfl : v = w := readByte_cons_self.symm.trans ((h a).trans readByte_cons_self)
      obtain ⟨_, _, hm⟩ := Memory.wfFrom_cons.mp hw
      obtain ⟨_, _, hm'⟩ := Memory.wfFrom_cons.mp hw'
      rw [ih hm hm' (readByte_tail_eq hm hm' h)]

end CanonicalForm

/-- Settles O16: the laws of a word write, and the uniqueness of the form. -/
theorem memoryLaws : Obligations.MemoryLaws := by
  refine ⟨fun m pa v hw => ⟨?form, ?same, ?other, ?bytes⟩, fun m m' hw hw' h => ?unique⟩
  case form => exact Memory.wf_writeWord hw
  case same => exact Memory.readWord_writeWord_self hw
  case other => exact fun _ => Memory.readWord_writeWord_ne
  case bytes => exact fun _ hleft hright => Memory.readByte_writeWord_ne ⟨hleft, hright⟩
  case unique => exact eq_of_readByte_eq hw hw' h

/-! ## Effective addresses (R70) -/

variable {s : State} {addr : Word} {kind : Access}

theorem effAddr_of_direct {m : MemOperand} (h : m.i = false) :
    effAddr s m = .ok (directAddr s.cur m + indexOf s.cur m) := by
  simp [effAddr, h]

theorem effAddr_of_indirect {m : MemOperand} (h : m.i = true) :
    effAddr s m = (memRead s (directAddr s.cur m)).map (· + indexOf s.cur m) := by
  simp only [effAddr, h, if_true]
  cases memRead s (directAddr s.cur m) <;> rfl

theorem effAddr_of_unindexed {m : MemOperand} (h : m.i = true) (hx : m.x = false) :
    effAddr s m = memRead s (directAddr s.cur m) := by
  rw [effAddr_of_indirect h]
  cases memRead s (directAddr s.cur m) <;> simp [Except.map, indexOf, hx]

/-- Settles O17: the modes without indirection, then those with it, unindexed before indexed. -/
theorem effectiveAddressTable : Obligations.EffectiveAddressTable := by
  intro s disp
  refine ⟨?p, ?b, ?wordAtP, ?wordAtB, ?x, ?bx, ?wordAtPx, ?wordAtBx⟩
  case p | b | x | bx => simp [effAddr_of_direct, directAddr, indexOf, sext8, BitVec.add_comm]
  case wordAtP | wordAtB => exact effAddr_of_unindexed rfl rfl
  case wordAtPx | wordAtBx => exact effAddr_of_indirect rfl

/-! ## Logical accesses (R60 to R63, R463) -/

theorem bankZero_eq_ofNat (addr : Word) : bankZero addr = BitVec.ofNat 24 addr.toNat :=
  BitVec.eq_of_toNat_eq (by simp; omega)

/-- 19 bits of a physical address as a remainder. -/
theorem normalModeAddr_eq_ofNat (pa : PhysAddr) : normalModeAddr pa = BitVec.ofNat 24 (pa.toNat % 2 ^ 19) :=
  BitVec.eq_of_toNat_eq (by simp [normalModeAddr])

theorem locate_on (hon : s.poni = true) : locate s addr kind = paged s addr kind (translate s addr kind) := by
  simp [locate, hon]

/-- Settles O18. -/
theorem logicalAccess : Obligations.LogicalAccess := by
  intro s addr kind
  refine ⟨fun hoff hin => ?inBankZero, fun hoff hout => ?notInstalled, fun hon => ?translated, fun _ => memRead_ok,
    fun _ => fetch_ok⟩
  case inBankZero =>
    rw [locate_off hoff, ← bankZero_eq_ofNat]
    exact installed_of_lt (by rwa [bankZero_toNat])
  case notInstalled =>
    rw [locate_off hoff, ← bankZero_eq_ofNat]
    exact installed_error.mpr ⟨by rwa [bankZero_toNat], rfl⟩
  case translated =>
    rw [locate_on hon]
    cases translate s addr kind with
    | none => simp only [paged, bankZero_eq_ofNat]
    | some pa => simp only [paged, installed, pagedAddr, normalModeAddr_eq_ofNat]

end Sys2Proof.Proofs
end

section
/-! PROOFS. The invariant: memory stays canonical and within the installed words (R62, R63, log 1). Memory is written word by
word, and every word written was found installed. An instruction is a chain of checks and accesses: one rule for the chain, one
for each way of storing, then every instruction by them, the host's events, and the step at last. -/

namespace Sys2Proof.Proofs

open Sys2Proof Sys2Proof.Machine

/-- What a computation answers, where it answers, satisfies `P`. -/
def Ensures {α : Type} (P : α → Prop) (x : Except Fault α) : Prop := ∀ a, x = .ok a → P a

/-- The next state of an outcome, if there is one, satisfies `P`. -/
def EnsuresNext (P : State → Prop) (o : Host.Outcome State Fault Refusal) : Prop := ∀ t, o = .next t → P t

/-- The invariant of a memory with `words` installed words. -/
def SoundMemory (words : Nat) (m : Memory) : Prop := m.wf = true ∧ m.within words = true

@[simp] theorem inv_iff {s : State} : s.Inv ↔ SoundMemory s.params.physWords s.mem := Iff.rfl

/-! ## Chains of checks and accesses -/

section Chains

variable {α β : Type} {P : β → Prop} {Q : State → Prop} {x : Except Fault α} {g : α → Except Fault β} {b : β}
  {f : Fault} {r : Refusal} {t : State}

@[simp] theorem ensures_ok : Ensures P (.ok b) ↔ P b := by
  simp [Ensures]

@[simp] theorem ensures_error : Ensures P (.error f) := by
  simp [Ensures]

@[simp] theorem ensures_bind : Ensures P (x >>= g) ↔ ∀ a, x = .ok a → Ensures P (g a) := by
  cases x <;> simp

@[simp] theorem ensuresNext_next : EnsuresNext Q (.next t) ↔ Q t := by
  simp [EnsuresNext]

@[simp] theorem ensuresNext_fault : EnsuresNext Q (.fault f) := by
  simp [EnsuresNext]

@[simp] theorem ensuresNext_refused : EnsuresNext Q (.refused r) := by
  simp [EnsuresNext]

@[simp] theorem ensuresNext_finish {y : Except Fault State} : EnsuresNext Q (finish y) ↔ Ensures Q y := by
  cases y <;> simp

/-- A walk keeps what each of its writes keeps: by induction on their number. -/
theorem ensures_walk {P : Memory → Prop} {write : Nat → Memory → Except Fault Memory}
    (hwrite : ∀ k m, P m → Ensures P (write k m)) (n : Nat) :
    ∀ (k : Nat) (m : Memory), P m → Ensures P (walk write n k m) := by
  induction n with
  | zero => exact fun _ _ hm => ensures_ok.mpr hm
  | succ n ih => exact fun k m hm => ensures_bind.mpr fun m' hok => ih (k + 1) m' (hwrite k m hm m' hok)

/-- A loop keeps what each of its passes keeps: by induction on the bound. -/
theorem ensures_loopUntilXZero {once : State → Except Fault State} (honce : ∀ s, Q s → Ensures Q (once s)) (n : Nat) :
    ∀ s, Q s → Ensures Q (loopUntilXZero once n s) := by
  induction n with
  | zero =>
    intro s hs
    simp only [loopUntilXZero]
    split <;> simp [hs]
  | succ n ih =>
    intro s hs
    simp only [loopUntilXZero]
    split
    · exact ensures_ok.mpr hs
    · exact ensures_bind.mpr fun s' hpass => ih s' (honce s hs s' hpass)

end Chains

/-! ## Stores -/

section Stores

variable {s : State} {m : Memory} {words : Nat} {pa : PhysAddr} {addr v : Word}

@[simp] theorem soundMemory_writeWord (hm : SoundMemory words m) (hpa : pa.toNat < words) :
    SoundMemory words (m.writeWord pa v) := by
  obtain ⟨hwf, hwithin⟩ := hm
  exact ⟨Memory.wf_writeWord hwf, Memory.within_writeWord hwithin hpa⟩

@[simp] theorem ensures_physStore (hm : s.Inv) : Ensures State.Inv (physStore s pa v) := by
  intro t hstore
  obtain ⟨hpa, rfl⟩ := physStore_ok.mp hstore
  exact soundMemory_writeWord hm hpa

@[simp] theorem ensures_storeWord (hm : s.Inv) : Ensures State.Inv (storeWord s addr v) := by
  intro t hstore
  obtain ⟨pa, hpa, rfl⟩ := storeWord_ok.mp hstore
  exact soundMemory_writeWord hm (locate_lt (s := s) hpa)

theorem ensures_storeWords (l : List Word) : ∀ (ea : Word) (m : Memory), SoundMemory s.params.physWords m →
    Ensures (SoundMemory s.params.physWords) (storeWords s l ea m) := by
  induction l with
  | nil => exact fun _ _ hm => ensures_ok.mpr hm
  | cons v l ih =>
    exact fun ea m hm => ensures_bind.mpr fun pa hpa => ih (ea + 1) _ (soundMemory_writeWord hm (locate_lt hpa))

theorem ensures_writeField (l : List (Option Word)) : ∀ (addr : Word) (m : Memory), SoundMemory s.params.physWords m →
    Ensures (SoundMemory s.params.physWords) (writeField s l addr m) := by
  induction l with
  | nil => exact fun _ _ hm => ensures_ok.mpr hm
  | cons e l ih =>
    intro addr m hm
    cases e with
    | none => exact ih (addr + 1) m hm
    | some v => exact ensures_bind.mpr fun pa hpa => ih (addr + 1) _ (soundMemory_writeWord hm (locate_lt hpa))

theorem ensures_sintranWrites (l : List (PhysAddr × Word)) : ∀ s : State, s.Inv →
    Ensures State.Inv (sintranWrites s l) := by
  induction l with
  | nil => exact fun _ hs => ensures_ok.mpr hs
  | cons w l ih => exact fun s hs => ensures_bind.mpr fun s' hstore => ih s' (ensures_physStore hs s' hstore)

theorem ensures_storeByteAt {right : Bool} {b : Byte} (hm : SoundMemory s.params.physWords m) :
    Ensures (SoundMemory s.params.physWords) (storeByteAt s m addr right b) := by
  simp only [storeByteAt, ensures_bind, pure_ok, ensures_ok]
  exact fun _ _ pw hpw => soundMemory_writeWord hm (locate_lt hpw)

/-- Both ends of a block move are found installed. -/
theorem locateEnd_lt {e : BlockEnd} {hi lo : Word} {k : Nat} {kind : Access} (h : locateEnd s e hi lo k kind = .ok pa) :
    pa.toNat < s.params.physWords := by
  cases e with
  | pt => exact locate_lt h
  | physical =>
    obtain ⟨hlt, rfl⟩ := installed_ok.mp h
    exact hlt
  | apt =>
    simp only [locateEnd] at h
    split at h
    · exact paged_lt h
    · exact locate_lt h

theorem ensures_moveWord {src dst : BlockEnd} {k : Nat} (hm : SoundMemory s.params.physWords m) :
    Ensures (SoundMemory s.params.physWords) (moveWord s src dst k m) := by
  simp only [moveWord, ensures_bind, pure_ok, ensures_ok]
  exact fun _ _ to' hto => soundMemory_writeWord hm (locateEnd_lt hto)

/-- A computed memory put in place of the old one. -/
theorem ensures_replaceMemory {x : Except Fault Memory} {t : State} (hx : Ensures (SoundMemory t.params.physWords) x) :
    Ensures State.Inv (do let mem ← x; return { t with mem := mem }) :=
  ensures_bind.mpr fun mem hmem => ensures_ok.mpr (hx mem hmem)

end Stores

/-! ## Instructions that store -/

section Storing

variable {s : State} (hs : SoundMemory s.params.physWords s.mem)
include hs

theorem ensuresNext_execStd (m : MemOperand) : EnsuresNext State.Inv (execStd m s) := by
  simp only [execStd, ensuresNext_finish, ensures_bind, pure_ok, ensures_ok]
  intro _ _ _ hhigh _ hlow
  simp [hs, locate_lt hhigh, locate_lt hlow]

/-- The second store starts from the state the first one left. -/
theorem ensuresNext_execStdtx (delta : BitVec 3) : EnsuresNext State.Inv (execStdtx delta s) :=
  ensuresNext_finish.mpr <| ensures_bind.mpr fun _ _ => ensures_bind.mpr fun s1 hfirst =>
    ensures_physStore (ensures_physStore (s := s.advance) hs s1 hfirst)

theorem ensuresNext_execMin (m : MemOperand) : EnsuresNext State.Inv (execMin m s) := by
  simp only [execMin, ensuresNext_finish, ensures_bind, pure_ok, ensures_ok]
  intro _ _ _ _ _ hword
  simp [hs, locate_lt hword]

theorem ensuresNext_execTset : EnsuresNext State.Inv (execTset s) := by
  simp only [execTset, ensuresNext_finish, ensures_bind, pure_ok, ensures_ok]
  intro _ _ _ hword
  simp [hs, locate_lt hword]

theorem ensuresNext_execEntr : EnsuresNext State.Inv (execEntr s) := by
  simp only [execEntr, ensuresNext_finish, ensures_bind, pure_ok, ensures_ok]
  intro _ _ _ _ _ _ _ hprevb _ hsmax _ hlink _ hstp
  simpa using soundMemory_writeWord (soundMemory_writeWord (soundMemory_writeWord
    (soundMemory_writeWord hs (locate_lt hprevb)) (locate_lt hsmax)) (locate_lt hlink)) (locate_lt hstp)

theorem ensures_initStack : Ensures State.Inv (initStack s) := by
  simp only [initStack, ensures_bind, pure_ok, ensures_ok]
  intro _ _ _ _ _ _ _ _ _ hlink _ hprevb _ hsmax _ hstp
  simpa using soundMemory_writeWord (soundMemory_writeWord (soundMemory_writeWord
    (soundMemory_writeWord hs (locate_lt hlink)) (locate_lt hprevb)) (locate_lt hsmax)) (locate_lt hstp)

theorem ensuresNext_execEleav : EnsuresNext State.Inv (execEleav s) := by
  simp only [execEleav, ensuresNext_finish, ensures_bind, pure_ok, ensures_ok]
  intro _ _ _ _ _ hlink _ hcode
  simp [hs, locate_lt hlink, locate_lt hcode]

theorem ensures_fillBytes (v : Byte) (n start : Nat) :
    Ensures (SoundMemory s.params.physWords) (fillBytes s v n start) :=
  ensures_walk (fun _ _ hm => ensures_storeByteAt hm) n 0 s.mem hs

theorem ensures_writeBytes (bytes : List Byte) (start : Nat) :
    Ensures (SoundMemory s.params.physWords) (writeBytes s bytes start) :=
  ensures_walk (fun _ _ hm => ensures_storeByteAt hm) bytes.length 0 s.mem hs

theorem ensures_copyForward (n src dst : Nat) :
    Ensures (SoundMemory s.params.physWords) (copyForward s n src dst) :=
  ensures_walk (fun _ _ hm => ensures_bind.mpr fun _ _ => ensures_storeByteAt hm) n 0 s.mem hs

theorem ensures_writeFields (op : DecimalOp) (e : DecimalEffect) :
    Ensures (SoundMemory s.params.physWords) (writeFields op s e) :=
  ensures_bind.mpr fun mem hmem => ensures_writeField _ _ mem (ensures_writeField _ _ _ hs mem hmem)

theorem ensures_runDecimal (op : DecimalOp) : Ensures State.Inv (runDecimal op s) :=
  ensures_bind.mpr fun _ _ => ensures_replaceMemory (ensures_writeFields hs op _)

theorem ensures_runConversion (op : DecimalOp) : Ensures State.Inv (runConversion op s) :=
  ensures_bind.mpr fun _ _ => ensures_replaceMemory (t := s.setCur _) (ensures_writeFields hs op _)

theorem ensuresNext_execStf (m : MemOperand) : EnsuresNext State.Inv (execStf m s) :=
  ensuresNext_finish.mpr <| ensures_bind.mpr fun _ _ => ensures_replaceMemory (ensures_storeWords _ _ _ hs)

theorem ensuresNext_execSrb (level : Level) : EnsuresNext State.Inv (execSrb level s) :=
  ensuresNext_finish.mpr <| ensures_bind.mpr fun _ _ => ensures_replaceMemory (ensures_storeWords _ _ _ hs)

theorem ensuresNext_execSbyt : EnsuresNext State.Inv (execSbyt s) :=
  ensuresNext_finish.mpr <| ensures_replaceMemory (ensures_storeByteAt hs)

theorem ensuresNext_execBfill : EnsuresNext State.Inv (execBfill s) :=
  ensuresNext_finish.mpr <| ensures_replaceMemory (ensures_fillBytes hs _ _ _)

theorem ensuresNext_execMovb : EnsuresNext State.Inv (execMovb s) :=
  ensuresNext_finish.mpr <| ensures_bind.mpr fun _ _ => ensures_replaceMemory (ensures_writeBytes hs _ _)

theorem ensuresNext_execMovbf : EnsuresNext State.Inv (execMovbf s) :=
  ensuresNext_finish.mpr <| ensures_replaceMemory (ensures_copyForward hs _ _ _)

theorem ensures_moveBlock (ty : BitVec 6) : Ensures State.Inv (moveBlock ty s) := by
  simp only [moveBlock]
  split
  · exact ensures_ok.mpr hs
  · simp only [ensures_bind, pure_ok, ensures_ok]
    exact ensures_walk (fun _ _ => ensures_moveWord) _ 0 s.mem hs

theorem ensuresNext_execMovew (ty : BitVec 6) : EnsuresNext State.Inv (execMovew ty s) := by
  simp only [execMovew, ensuresNext_finish]
  split
  · exact ensures_error
  · split
    · exact ensures_bind.mpr fun _ _ => ensures_moveBlock hs ty
    · exact ensures_moveBlock hs ty

theorem ensures_runSintran (op : SintranOp) (i : Instr) : Ensures State.Inv (runSintran op i s) :=
  ensures_bind.mpr fun _ _ => ensures_bind.mpr fun _ _ => ensures_sintranWrites _ _ hs

end Storing

/-! ## Page-table loops (R211, R212) -/

/-- A pass of `SETPT` stores the two words of a page-table entry; the registers it loads before do not matter. -/
theorem ensures_setptOnce (s : State) (hs : s.Inv) : Ensures State.Inv (setptOnce s) := by
  simp only [setptOnce, ensures_bind, pure_ok, ensures_ok]
  intro _ _ _ _ _ _ pa0 hpa0 pa1 hpa1 _ _
  have hlt0 : pa0.toNat < s.params.physWords := by simpa using locate_lt hpa0
  have hlt1 : pa1.toNat < s.params.physWords := by simpa using locate_lt hpa1
  simp [inv_iff.mp hs, hlt0, hlt1]

/-- A pass of `CLEPT` stores twice, or not at all where the page-table word is 0. -/
theorem ensures_cleptOnce (s : State) (hs : s.Inv) : Ensures State.Inv (cleptOnce s) := by
  simp only [cleptOnce, ensures_bind]
  intro w _ a _
  split
  · simp [inv_iff.mp hs]
  · simp only [ensures_bind, pure_ok, ok_bind, ensures_ok]
    intro s' hstore pa hpa _ _
    have hs' : s'.Inv := ensures_physStore (by simpa using hs) s' hstore
    simp [inv_iff.mp hs', locate_lt hpa]

theorem ensuresNext_execSetpt {s : State} (hs : s.Inv) : EnsuresNext State.Inv (execSetpt s) := by
  simp only [execSetpt, ensuresNext_finish, ensures_bind, pure_ok, ensures_ok]
  exact fun _ _ => ensures_loopUntilXZero ensures_setptOnce loopBound s hs

theorem ensuresNext_execClept {s : State} (hs : s.Inv) : EnsuresNext State.Inv (execClept s) := by
  simp only [execClept, ensuresNext_finish, ensures_bind, pure_ok, ensures_ok]
  exact fun _ _ => ensures_loopUntilXZero ensures_cleptOnce loopBound s hs

/-! ## Every instruction -/

theorem exchange_mem (s : State) (dev : Word) : (exchange s dev).mem = s.mem := by
  unfold exchange
  split <;> rfl

theorem exchange_params (s : State) (dev : Word) : (exchange s dev).params = s.params := by
  unfold exchange
  split <;> rfl

theorem addRegs_mem (adc ad1 cm1 cld : Bool) (sr dr : RegField) (s : State) :
    (addRegs adc ad1 cm1 cld sr dr s).mem = s.mem := by
  unfold addRegs
  split <;> rfl

theorem addRegs_params (adc ad1 cm1 cld : Bool) (sr dr : RegField) (s : State) :
    (addRegs adc ad1 cm1 cld sr dr s).params = s.params := by
  unfold addRegs
  split <;> rfl

section Executed

variable {s : State} (hs : SoundMemory s.params.physWords s.mem)
include hs

theorem ensuresNext_execWait (n : Byte) : EnsuresNext State.Inv (execWait n s) := by
  simp only [execWait, ensuresNext_finish, ensures_bind, pure_ok, ensures_ok]
  intro _ _
  split
  · simp [halt, hs]
  · split <;> simp [giveUpPriority, hs]

theorem ensuresNext_execLwcs : EnsuresNext State.Inv (execLwcs s) := by
  unfold execLwcs
  split
  · simp
  · split <;> simp [hs]

/-- The instructions that write no memory come first, then those that store. -/
theorem ensuresNext_executed (i : Instr) : EnsuresNext State.Inv (executed i s) := by
  cases i
  case saa | sab | sat | sax | aaa | aab | aat | aax =>
    simp [executed, execSaa, execSab, execSat, execSax, execAaa, execAab, execAat, execAax, hs]
  case add | sub | and | ora | mpy => simp [executed, execAdd, execSub, execAnd, execOra, execMpy, hs]
  case bsetZro | bsetOne | bsetBcm | bsetBac => simp [executed, execBsetZro, execBsetOne, execBsetBcm, execBsetBac, hs]
  case bskpZro | bskpOne | bskpBcm | bskpBac => simp [executed, execBskpZro, execBskpOne, execBskpBcm, execBskpBac, hs]
  case bstc | bsta | bldc | blda => simp [executed, execBstc, execBsta, execBldc, execBlda, hs]
  case banc | band | borc | bora => simp [executed, execBanc, execBand, execBorc, execBora, hs]
  case lbyt | comd => simp [executed, execLbyt, execComd, runCompare, hs]
  case irr _ r => cases r <;> simp [executed, execIrr, hs]
  case irw | mon => simp [executed, execIrw, execMon, hs]
  case lrb =>
    simp only [executed, execLrb, ensuresNext_finish, ensures_bind]
    intro _ _ _ _
    split <;> simp [hs]
  case iof | ion | pof | piof | pion | pon | rex | sex =>
    simp [executed, execIof, execIon, execPof, execPiof, execPion, execPon, execRex, execSex, hs]
  case opcom => simp [executed, execOpcom, halt, hs]
  case wait n => exact ensuresNext_execWait hs n
  case ldf | fad | fsb | fmu | fdv => simp [executed, execLdf, execFad, execFsb, execFmu, execFdv, floatResult, hs]
  case nlz | dnz =>
    simp only [executed, execNlz, execDnz]
    split <;> simp [hs]
  case iox | ioxt => simp [executed, execIox, execIoxt, exchange_mem, exchange_params, hs]
  case iot | ident => simp [executed, execIot, execIdent, hs]
  case tra | trr | mst | mcl =>
    simp only [executed, execTra, execTrr, execMst, execMcl, ensuresNext_finish, ensures_bind]
    intro _ _ _ _
    split <;> simp [traUnheld, hs]
  case jap | jan | jaz | jaf | jxz | jxn | jpc | jnc =>
    simp [executed, execJap, execJan, execJaz, execJaf, execJxz, execJxn, execJpc, execJnc, hs]
  case jmp | jpl => simp [executed, execJmp, execJpl, hs]
  case rdus | exam => simp [executed, execRdus, execExam, hs]
  case ldatx | ldxtx | ldbtx | lddtx => simp [executed, execLdatx, execLdxtx, execLdbtx, execLddtx, hs]
  case radd | copy | rsub | rinc | rdcr | rclr | exit =>
    simp [executed, execRadd, execCopy, execRsub, execRinc, execRdcr, execRclr, execExit, addRegs_mem, addRegs_params, hs]
  case rand | rexo | rora | swap => simp [executed, execRand, execRexo, execRora, execSwap, logicRegs, hs]
  case rdiv =>
    simp only [executed, execRdiv]
    split <;> simp [hs]
  case rmpy | mix3 => simp [executed, execRmpy, execMix3, hs]
  case sht | shd | sha | sad => simp [executed, execSht, execShd, execSha, execSad, hs]
  case wglob | rglob => simp [executed, execWglob, execRglob, hs]
  case lbit | lbitp | lbytp | rdusp => simp [executed, execLbit, execLbitp, loadArrayBit, execLbytp, execRdusp, hs]
  case lasb | lacb | lxsb | lxcb => simp [executed, execLasb, execLacb, execLxsb, execLxcb, hs]
  case skp | leave => simp [executed, execSkp, execLeave, hs]
  case versn =>
    simp only [executed, execVersn]
    split <;> simp [hs]
  case geco => exact ensuresNext_refused
  case lwcs => exact ensuresNext_execLwcs hs
  case ldd | lda | ldt | ldx => simp [executed, execLdd, execLda, execLdt, execLdx, hs]
  case exr => simp [executed, nestedExr, hs]
  case sta | stt | stx | stz => simp [executed, execSta, execStt, execStx, execStz, hs]
  case std m => exact ensuresNext_execStd hs m
  case stf m => exact ensuresNext_execStf hs m
  case min m => exact ensuresNext_execMin hs m
  case tset => exact ensuresNext_execTset hs
  case sbit | sbitp | sbytp | tsetp => simp [executed, execSbit, execSbitp, execSbytp, execTsetp, hs]
  case statx | stztx | depo => simp [executed, execStatx, execStztx, execDepo, hs]
  case stdtx delta => exact ensuresNext_execStdtx hs delta
  case sasb | sacb | szsb | szcb => simp [executed, execSasb, execSacb, execSzsb, execSzcb, hs]
  case entr => exact ensuresNext_execEntr hs
  case eleav => exact ensuresNext_execEleav hs
  case init =>
    simp only [executed, execInit]
    split
    · exact ensuresNext_finish.mpr (ensures_initStack hs)
    · exact ensuresNext_refused
  case srb level => exact ensuresNext_execSrb hs level
  case sbyt => exact ensuresNext_execSbyt hs
  case bfill => exact ensuresNext_execBfill hs
  case movb => exact ensuresNext_execMovb hs
  case movbf => exact ensuresNext_execMovbf hs
  case movew ty => exact ensuresNext_execMovew hs ty
  case addd | subd | shde => exact ensuresNext_finish.mpr (ensures_runDecimal hs _)
  case pack | upack => exact ensuresNext_finish.mpr (ensures_runConversion hs _)
  case setpt => exact ensuresNext_execSetpt hs
  case clept => exact ensuresNext_execClept hs
  case clepu | chreentpages | clnreent | clpt | cnrek | enpt | inspl | rempl | rept =>
    exact ensuresNext_finish.mpr (ensures_runSintran hs _ _)

/-- `EXR` runs the instruction of its register, or ends in a fault. -/
theorem ensuresNext_execExr (sr dr : RegField) : EnsuresNext State.Inv (execExr sr dr s) := by
  unfold execExr
  split
  · exact ensuresNext_fault
  · split
    · exact ensuresNext_fault
    · exact ensuresNext_executed hs _

theorem ensuresNext_exec (i : Instr) : EnsuresNext State.Inv (exec i s) := by
  by_cases h : ∃ sr dr, i = .exr sr dr
  · obtain ⟨sr, dr, rfl⟩ := h
    exact ensuresNext_execExr hs sr dr
  · rw [exec_eq_executed fun sr dr hi => h ⟨sr, dr, hi⟩]
    exact ensuresNext_executed hs i

end Executed

/-! ## The step -/

theorem inv_applyHostEvent {s : State} (hs : s.Inv) (e : HostEvent) : (applyHostEvent s e).Inv := by
  cases e with
  | interrupt n =>
    simp only [applyHostEvent]
    split <;> exact hs
  | memWrite pa v =>
    simp only [applyHostEvent, State.physWriteIfInstalled]
    split
    case isTrue hpa => exact soundMemory_writeWord hs hpa
    case isFalse => exact hs

theorem inv_foldl_applyHostEvent (l : List HostEvent) : ∀ s : State, s.Inv → (l.foldl applyHostEvent s).Inv := by
  induction l with
  | nil => exact fun _ hs => hs
  | cons e l ih => exact fun s hs => ih (applyHostEvent s e) (inv_applyHostEvent hs e)

/-- The events of the gap keep the invariant, and the level change writes PIL alone. -/
theorem inv_beginStep {s : State} (hs : s.Inv) : (beginStep s).Inv := by
  rw [beginStep, levelChange_eq]
  exact inv_foldl_applyHostEvent (s.gaps.headD []) { s with gaps := s.gaps.tail } hs

/-- Settles O11: the step's instruction is executed in a state that meets the invariant, whichever it is. -/
theorem stepKeepsInv : Obligations.StepKeepsInv := by
  intro s t hs hstep
  obtain ⟨i, hexec⟩ := exec_of_step_next hstep
  exact ensuresNext_exec (inv_beginStep hs) i t hexec

end Sys2Proof.Proofs
end

section
/-! PROOFS. Decoding inverts encoding (R90 to R111, R125). Each block of the decoder is taken once, on a word written as the encoder
writes it: fields appended to each other. -/

namespace Sys2Proof.Proofs

open Sys2Proof Sys2Proof.Machine

/-! ## Every vector is made of fields -/

theorem exists_append {m n : Nat} (w : BitVec (m + n)) : ∃ (a : BitVec m) (b : BitVec n), w = a ++ b :=
  ⟨_, _, (append_parts w).symm⟩

theorem eq_ofNat_of_toNat {n k : Nat} {b : BitVec n} (h : b.toNat = k) : b = BitVec.ofNat n k := by simp [← h]

theorem exists_regField (c : BitVec 3) : ∃ r : RegField, c = r.bits := ⟨.ofBits c, by simp⟩

theorem exists_registers (r : BitVec 6) : ∃ sr dr : RegField, r = pair33 sr.bits dr.bits := by
  obtain ⟨hi, lo, rfl⟩ := exists_append (m := 3) (n := 3) r
  obtain ⟨sr, rfl⟩ := exists_regField hi
  obtain ⟨dr, rfl⟩ := exists_regField lo
  exact ⟨sr, dr, rfl⟩

@[simp] theorem memOperand_bits_ofBits (r : BitVec 11) : (MemOperand.ofBits r).bits = r := by
  obtain ⟨modes, disp, rfl⟩ := exists_append (m := 3) (n := 8) r
  have hmodes : ∀ k : BitVec 3,
      BitVec.ofBool (k.getLsbD 2) ++ (BitVec.ofBool (k.getLsbD 1) ++ BitVec.ofBool (k.getLsbD 0)) = k := by decide
  have hx : (modes ++ disp).getLsbD 10 = modes.getLsbD 2 := append_upper_bit modes disp 2
  have hi : (modes ++ disp).getLsbD 9 = modes.getLsbD 1 := append_upper_bit modes disp 1
  have hb : (modes ++ disp).getLsbD 8 = modes.getLsbD 0 := append_upper_bit modes disp 0
  have hdisp : (modes ++ disp).extractLsb' 0 8 = disp := append_low modes disp
  simp only [MemOperand.ofBits, MemOperand.bits, hx, hi, hb, hdisp, hmodes]

theorem exists_memOperand (r : BitVec 11) : ∃ m : MemOperand, r = m.bits := ⟨.ofBits r, by simp⟩

/-- Bits 10-6 of a `SKP` word (R95). -/
def skpKey (c : SkipCond) : BitVec 5 := c.bits ++ 0#2

theorem exists_skpKey {key : BitVec 5} (h : key.toNat % 4 = 0) : ∃ c, key = skpKey c :=
  ⟨.ofBits (key.extractLsb' 2 3), by revert key; decide⟩

/-- Bits 10-6 of a ROP word (R94). -/
def ropKey (rad b9 b8 cm1 cld : Bool) : BitVec 5 :=
  BitVec.ofBool rad ++ (BitVec.ofBool b9 ++ (BitVec.ofBool b8 ++ (BitVec.ofBool cm1 ++ BitVec.ofBool cld)))

theorem exists_ropKey : ∀ k : BitVec 5, ∃ rad b9 b8 cm1 cld : Bool, k = ropKey rad b9 b8 cm1 cld := by decide

theorem encodeRop_eq (rad b9 b8 cm1 cld : Bool) (sr dr : RegField) :
    encodeRop rad b9 b8 cm1 cld sr dr = 25#5 ++ (ropKey rad b9 b8 cm1 cld ++ pair33 sr.bits dr.bits) := rfl

/-! ## The blocks of words with a fixed opcode (R108) -/

theorem decodeFixed_jump (r : BitVec 11) : decodeFixed (22#5 ++ r) = .ok (decodeJump r) := by simp [decodeFixed]

theorem decodeFixed_extended (r : BitVec 11) : decodeFixed (24#5 ++ r) = decodeExtended (24#5 ++ r) r := by
  simp [decodeFixed]

theorem decodeFixed_rop (r : BitVec 11) : decodeFixed (25#5 ++ r) = .ok (decodeRop r) := by simp [decodeFixed]

theorem decodeFixed_system (r : BitVec 11) : decodeFixed (26#5 ++ r) = decodeSystem (26#5 ++ r) r := by
  simp [decodeFixed]

theorem decodeFixed_block (b : Byte) : decodeFixed (26#5 ++ (5#3 ++ b)) = decodeBlock (26#5 ++ (5#3 ++ b)) b := by
  simp [decodeFixed, decodeSystem]

theorem decodeFixed_inter (b : Byte) : decodeFixed (26#5 ++ (7#3 ++ b)) = .ok (decodeInter b) := by
  simp [decodeFixed, decodeSystem]

theorem decodeFixed_shift (r : BitVec 11) : decodeFixed (27#5 ++ r) = decodeShift (27#5 ++ r) r := by
  simp [decodeFixed]

theorem decodeFixed_iot (r : BitVec 11) : decodeFixed (28#5 ++ r) = .ok (.iot r) := by simp [decodeFixed]

theorem decodeFixed_iox (r : BitVec 11) : decodeFixed (29#5 ++ r) = .ok (.iox r) := by simp [decodeFixed]

theorem decodeFixed_argument (r : BitVec 11) : decodeFixed (30#5 ++ r) = .ok (decodeArgument r) := by
  simp [decodeFixed]

theorem decodeFixed_bit (r : BitVec 11) : decodeFixed (31#5 ++ r) = .ok (decodeBit r) := by simp [decodeFixed]

/-- The instruction of a ROP word: `RADD`, or one of the four logical operations (R94). -/
def ropInstr (rad b9 b8 cm1 cld : Bool) (sr dr : RegField) : Instr :=
  if rad then .radd b9 b8 cm1 cld sr dr
  else if b9 then if b8 then .rora cm1 cld sr dr else .rexo cm1 cld sr dr
  else if b8 then .rand cm1 cld sr dr else .swap cm1 cld sr dr

theorem decodeRop_fields (rad b9 b8 cm1 cld : Bool) (low : BitVec 6) :
    decodeRop (ropKey rad b9 b8 cm1 cld ++ low) = ropInstr rad b9 b8 cm1 cld (srOf low) (drOf low) := by
  have hflags : ∀ a b c d e : Bool, (ropKey a b c d e).getLsbD 3 = b ∧ (ropKey a b c d e).getLsbD 2 = c ∧
      (ropKey a b c d e).getLsbD 1 = d ∧ (ropKey a b c d e).getLsbD 0 = e := by decide
  obtain ⟨h9, h8, h7, h6⟩ := hflags rad b9 b8 cm1 cld
  have hsub : sub3 (ropKey rad b9 b8 cm1 cld ++ low) = (ropKey rad b9 b8 cm1 cld).extractLsb' 2 3 :=
    append_upper _ low 2 3
  have hadc : (ropKey rad b9 b8 cm1 cld ++ low).getLsbD 9 = b9 := (append_upper_bit _ low 3).trans h9
  have had1 : (ropKey rad b9 b8 cm1 cld ++ low).getLsbD 8 = b8 := (append_upper_bit _ low 2).trans h8
  have hcm1 : (ropKey rad b9 b8 cm1 cld ++ low).getLsbD 7 = cm1 := (append_upper_bit _ low 1).trans h7
  have hcld : (ropKey rad b9 b8 cm1 cld ++ low).getLsbD 6 = cld := (append_upper_bit _ low 0).trans h6
  simp only [decodeRop, hsub, hadc, had1, hcm1, hcld, low6_append]
  cases rad <;> cases b9 <;> cases b8 <;> cases cm1 <;> cases cld <;> rfl

/-- The instruction of a shift word, by its register field (R96). -/
def shiftInstr (reg : BitVec 2) (ty : ShiftType) (count : BitVec 6) : Instr :=
  match reg.toNat with
  | 0 => .sht ty count
  | 1 => .shd ty count
  | 2 => .sha ty count
  | _ => .sad ty count

/-! ## Decoding an encoded word -/

theorem decodeFixed_encodeKey (key : BitVec 5) (r : BitVec 6) :
    decodeFixed (encodeKey 24#5 key r) = decodeExtended (encodeKey 24#5 key r) (key ++ r) := decodeFixed_extended _

theorem decodeExtended_skp (w : Word) (c : SkipCond) (low : BitVec 6) :
    decodeExtended w (skpKey c ++ low) = .ok (.skp c (srOf low) (drOf low)) := by
  have hkey : sub3 (skpKey c ++ low) = (skpKey c).extractLsb' 2 3 := append_upper _ low 2 3
  have hcond : (skpKey c).extractLsb' 2 3 = c.bits := append_high c.bits 0#2
  simp only [decodeExtended, key5_append, low6_append, hkey, hcond, SkipCond.ofBits_bits]
  cases c <;> rfl

theorem decodeFixed_encode_skp (o : Opcodes) (c : SkipCond) (sr dr : RegField) :
    decodeFixed (encode o (.skp c sr dr)) = .ok (.skp c sr dr) :=
  (decodeFixed_encodeKey (skpKey c) _).trans (by rw [decodeExtended_skp, srOf_pair, drOf_pair])

theorem decodeFixed_encodeRop (rad b9 b8 cm1 cld : Bool) (sr dr : RegField) :
    decodeFixed (encodeRop rad b9 b8 cm1 cld sr dr) = .ok (ropInstr rad b9 b8 cm1 cld sr dr)  := by
  simp [encodeRop_eq, decodeFixed_rop, decodeRop_fields]

theorem decodeFixed_encodeSystem (s : BitVec 3) (n : Byte) :
    decodeFixed (encodeByte8 26#5 s n) = decodeSystem (encodeByte8 26#5 s n) (s ++ n) := decodeFixed_system _

/-- `LRB`: bit 7 and type 000. -/
theorem decodeBlock_lrb (w : Word) (n : Level) : decodeBlock w (1#1 ++ (n ++ 0#3)) = .ok (.lrb n) := by
  simp only [decodeBlock, bit7_append, levelOf_append, type3_append]
  rfl

theorem decodeInter_irw (n : Level) (r : RegField) : decodeInter (0#1 ++ (n ++ r.bits)) = .irw n r := by
  simp only [decodeInter, bit7_append, levelOf_append, type3_append, RegField.ofBits_bits]
  rfl

theorem decodeInter_irr (n : Level) (r : RegField) : decodeInter (1#1 ++ (n ++ r.bits)) = .irr n r := by
  simp only [decodeInter, bit7_append, levelOf_append, type3_append, RegField.ofBits_bits]
  rfl

theorem decodeShift_fields (w : Word) (ty : ShiftType) (reg : BitVec 2) (n : BitVec 6) :
    decodeShift w ((ty.bits ++ (reg ++ 0#1)) ++ n) = .ok (shiftInstr reg ty n) := by
  have hcount : low6 ((ty.bits ++ (reg ++ 0#1)) ++ n) = n := low6_append _ n
  simp only [decodeShift, shiftType_append, shiftReg_append, hcount, ShiftType.ofBits_bits]
  obtain ⟨k⟩ := reg
  fin_cases k <;> rfl

theorem decodeShift_bitSix (w : Word) (t reg : BitVec 2) (n : BitVec 6) :
    decodeShift w ((t ++ (reg ++ 1#1)) ++ n) = .error (.shiftBitSix w) := by
  simp only [decodeShift, shiftReg_append]
  obtain ⟨k⟩ := reg
  fin_cases k <;> rfl

theorem decodeFixed_encodeShift (ty : ShiftType) (reg : BitVec 2) (n : BitVec 6) :
    decodeFixed (encodeShift ty reg n) = .ok (shiftInstr reg ty n) :=
  (decodeFixed_shift _).trans (decodeShift_fields _ ty reg n)

/-- The operation of number `t` (R150). -/
theorem decodeBit_fields (t bn : BitVec 4) (dr : RegField) :
    (bitOperations bn dr)[t.toNat]? = some (decodeBit (t ++ (bn ++ dr.bits))) := by
  simp only [decodeBit, bitType_append, bitNumber_append, bitReg_append, RegField.ofBits_bits]
  obtain ⟨k⟩ := t
  fin_cases k <;> rfl

theorem decodeFixed_encodeBit {t bn : BitVec 4} {dr : RegField} {i : Instr} (h : (bitOperations bn dr)[t.toNat]? = some i) :
    decodeFixed (encodeBit t bn dr) = .ok i := by
  obtain rfl : decodeBit (t ++ (bn ++ dr.bits)) = i := Option.some.inj ((decodeBit_fields t bn dr).symm.trans h)
  exact decodeFixed_bit _

theorem mem_table_of_single {o : Opcodes} {e : Word × Instr} (h : e ∈ o.single) : e ∈ o.table := by
  simp [Opcodes.table, h]

/-- The word of an instruction has a fixed opcode, or stands in the table of the open ones. -/
theorem decodeFixed_encode (o : Opcodes) (i : Instr) :
    decodeFixed (encode o i) = .ok i.core ∨ (encode o i, i.core) ∈ o.table := by
  cases i with
  | stz m | sta m | stt m | stx m | std m | ldd m | stf m | ldf m | min m | lda m | ldt m | ldx m | add m | sub m
  | and m | ora m | fad m | fsb m | fmu m | fdv m | mpy m | jmp m | jpl m =>
    exact .inl (by simp [encode, encodeMem, decodeFixed, Instr.core])
  | jap d | jan d | jaz d | jaf d | jpc d | jnc d | jxz d | jxn d =>
    exact .inl (by simp [encode, encodeByte8, decodeFixed_jump, decodeJump, Instr.core])
  | skp c sr dr => exact .inl (decodeFixed_encode_skp o c sr dr)
  | exr sr dr | rmpy sr dr | rdiv sr dr =>
    exact .inl (by simp [encode, decodeFixed_encodeKey, decodeExtended, Instr.core])
  | movew n | ident n =>
    exact .inl (by simp [encode, decodeFixed_encodeKey, decodeExtended, Instr.core])
  | ldatx d | ldxtx d | lddtx d | ldbtx d | statx d | stztx d | stdtx d =>
    exact .inl (by simp [encode, decodeFixed_encodeKey, decodeExtended, decodeTx, Instr.core])
  | lbyt | sbyt | mix3 | lwcs => exact .inl (by simp only [encode, Instr.core]; rfl)
  | swap cm1 cld sr dr | rand cm1 cld sr dr | rexo cm1 cld sr dr | rora cm1 cld sr dr =>
    exact .inl (decodeFixed_encodeRop ..)
  | radd adc ad1 cm1 cld sr dr => exact .inl (decodeFixed_encodeRop ..)
  | copy adc ad1 cm1 sr dr => exact .inl (decodeFixed_encodeRop ..)
  | rsub cld sr dr => exact .inl (decodeFixed_encodeRop ..)
  | rinc dr | rdcr dr | rclr dr => exact .inl (decodeFixed_encodeRop ..)
  | exit => exact .inl (decodeFixed_encodeRop ..)
  | tra n | trr n | mcl n | mst n =>
    exact .inl (by simp [encode, encodeIreg, decodeFixed_encodeSystem, decodeSystem, decodeIreg, Instr.core])
  | opcom | iof | ion | pof | piof | sex | rex | pon | pion | ioxt | exam | depo =>
    exact .inl (by simp only [encode, Instr.core]; rfl)
  | wait n | nlz n | dnz n | mon n =>
    exact .inl (by simp [encode, decodeFixed_encodeSystem, decodeSystem, Instr.core])
  | lrb n => exact .inl ((decodeFixed_block _).trans (decodeBlock_lrb _ n))
  | irw n r => exact .inl ((decodeFixed_inter _).trans (congrArg Except.ok (decodeInter_irw n r)))
  | irr n r => exact .inl ((decodeFixed_inter _).trans (congrArg Except.ok (decodeInter_irr n r)))
  | sht ty n => exact .inl (decodeFixed_encodeShift ty 0 n)
  | shd ty n => exact .inl (decodeFixed_encodeShift ty 1 n)
  | sha ty n => exact .inl (decodeFixed_encodeShift ty 2 n)
  | sad ty n => exact .inl (decodeFixed_encodeShift ty 3 n)
  | iot a => exact .inl (decodeFixed_iot a)
  | iox a => exact .inl (decodeFixed_iox a)
  | sab n | saa n | sat n | sax n | aab n | aaa n | aat n | aax n =>
    exact .inl (by simp [encode, encodeByte8, decodeFixed_argument, decodeArgument, Instr.core])
  | bsetZro bn dr | bsetOne bn dr | bsetBcm bn dr | bsetBac bn dr | bskpZro bn dr | bskpOne bn dr | bskpBcm bn dr
  | bskpBac bn dr | bstc bn dr | bsta bn dr | bldc bn dr | blda bn dr | banc bn dr | band bn dr | borc bn dr
  | bora bn dr =>
    exact .inl (decodeFixed_encodeBit rfl)
  | addd | subd | comd | tset | pack | upack | shde | rdus | bfill | movb | movbf | versn | init | entr | leave | eleav
  | setpt | clept | clnreent | chreentpages | clepu | wglob | rglob | inspl | rempl | cnrek | clpt | enpt | rept | lbit
  | sbit | lbitp | sbitp | lbytp | sbytp | tsetp | rdusp | geco =>
    exact .inr (mem_table_of_single (by simp [Opcodes.single, encode, Instr.core]))
  | lasb d | sasb d | lacb d | sacb d | lxsb d | lxcb d | szsb d | szcb d =>
    exact .inr (by simp [Opcodes.table, mem_deltaFamily, encode, Instr.core])
  | srb n => exact .inr (by simp [Opcodes.table, mem_levelFamily, encode, Instr.core])

theorem decodeWord_encode {o : Opcodes} (ho : o.wf = true) (i : Instr) : decodeWord o (encode o i) = .ok i.core := by
  rcases decodeFixed_encode o i with hfixed | hopen
  · exact decodeWord_fixed hfixed
  · exact decodeWord_open ho hopen

theorem wordOfBytes_encode (o : Opcodes) (i : Instr) :
    wordOfBytes ((encode o i).extractLsb' 8 8) ((encode o i).extractLsb' 0 8) = encode o i :=
  append_parts (m := 8) (n := 8) _

/-- Settles O1: the two bytes are joined to the word again, which decodes in its own block or in the table. -/
theorem decodeInvertsEncode : Obligations.DecodeInvertsEncode := by
  refine ⟨by decide +kernel, by decide +kernel, fun o ho i rest => ?_⟩
  simp only [encodeBytes, List.cons_append, List.nil_append, decode, wordOfBytes_encode, decodeWord_encode ho i]
  rfl

end Sys2Proof.Proofs
end

section
/-! PROOFS. Encoding inverts decoding (R107 to R112): what a block of the decoder answers is encoded to the word it was read from. -/

namespace Sys2Proof.Proofs

open Sys2Proof Sys2Proof.Machine

/-- `w` is the word of `i`, and `i` no assembler name of another instruction. -/
structure Spells (o : Opcodes) (i : Instr) (w : Word) : Prop where
  word : encode o i = w
  core : i.core = i

/-- What the decoder answers for `w` is spelt `w`. -/
def Faithful (o : Opcodes) (w : Word) (x : Except DecodeError Instr) : Prop := ∀ i, x = .ok i → Spells o i w

/-! ## The words of fixed opcodes -/

section Faithful

variable {o : Opcodes} {w : Word} {i : Instr} {e : DecodeError}

theorem faithful_ok (h : Spells o i w) : Faithful o w (.ok i) := fun _ hi => Except.ok.inj hi ▸ h

theorem faithful_error : Faithful o w (.error e) := fun _ hi => nomatch hi

theorem spells_decodeJump (r : BitVec 11) : Spells o (decodeJump r) (22#5 ++ r) := by
  obtain ⟨s, n, rfl⟩ := exists_append (m := 3) (n := 8) r
  simp only [decodeJump, sub3_append, low8_append]
  obtain ⟨k⟩ := s
  fin_cases k <;> exact ⟨rfl, rfl⟩

theorem spells_decodeArgument (r : BitVec 11) : Spells o (decodeArgument r) (30#5 ++ r) := by
  obtain ⟨s, n, rfl⟩ := exists_append (m := 3) (n := 8) r
  simp only [decodeArgument, sub3_append, low8_append]
  obtain ⟨k⟩ := s
  fin_cases k <;> exact ⟨rfl, rfl⟩

theorem spells_decodeRop (r : BitVec 11) : Spells o (decodeRop r) (25#5 ++ r) := by
  obtain ⟨key, low, rfl⟩ := exists_append (m := 5) (n := 6) r
  obtain ⟨rad, b9, b8, cm1, cld, rfl⟩ := exists_ropKey key
  obtain ⟨sr, dr, rfl⟩ := exists_registers low
  rw [decodeRop_fields, srOf_pair, drOf_pair]
  cases rad <;> cases b9 <;> cases b8 <;> exact ⟨rfl, rfl⟩

theorem spells_shiftInstr (reg : BitVec 2) (ty : ShiftType) (n : BitVec 6) :
    Spells o (shiftInstr reg ty n) (encodeShift ty reg n) := by
  obtain ⟨k⟩ := reg
  fin_cases k <;> exact ⟨rfl, rfl⟩

theorem spells_decodeBit (r : BitVec 11) : Spells o (decodeBit r) (31#5 ++ r) := by
  obtain ⟨t, low, rfl⟩ := exists_append (m := 4) (n := 7) r
  obtain ⟨bn, d, rfl⟩ := exists_append (m := 4) (n := 3) low
  obtain ⟨dr, rfl⟩ := exists_regField d
  have hop := decodeBit_fields t bn dr
  generalize decodeBit (t ++ (bn ++ dr.bits)) = i at hop
  obtain ⟨k⟩ := t
  fin_cases k <;> (cases hop; exact ⟨rfl, rfl⟩)

theorem faithful_decodeShift (r : BitVec 11) : Faithful o (27#5 ++ r) (decodeShift (27#5 ++ r) r) := by
  obtain ⟨top, n, rfl⟩ := exists_append (m := 5) (n := 6) r
  obtain ⟨t, low, rfl⟩ := exists_append (m := 2) (n := 3) top
  obtain ⟨reg, z, rfl⟩ := exists_append (m := 2) (n := 1) low
  obtain ⟨ty, rfl⟩ : ∃ ty : ShiftType, t = ty.bits := ⟨.ofBits t, by simp⟩
  obtain rfl | rfl : z = 0#1 ∨ z = 1#1 := by revert z; decide
  · rw [decodeShift_fields]
    exact faithful_ok (spells_shiftInstr reg ty n)
  · rw [decodeShift_bitSix]
    exact faithful_error

theorem faithful_decodeExact (key : BitVec 5) (r : BitVec 6) (h : Spells o i (encodeKey 24#5 key 0)) :
    Faithful o (encodeKey 24#5 key r) (decodeExact w r i) := by
  unfold decodeExact
  split
  case isTrue hr => exact faithful_ok (hr ▸ h)
  case isFalse => exact faithful_error

theorem faithful_decodeTx (r : BitVec 6) : Faithful o (encodeKey 24#5 27#5 r) (decodeTx w r) := by
  obtain ⟨d, n, rfl⟩ : ∃ d n, r = pair33 d n := exists_append (m := 3) (n := 3) r
  simp only [decodeTx, low3_pair, mid3_pair]
  split
  case h_8 => exact faithful_error
  all_goals
    rename_i htype
    obtain rfl := eq_ofNat_of_toNat htype
    exact faithful_ok ⟨rfl, rfl⟩

theorem faithful_decodeExtended (r : BitVec 11) : Faithful o (24#5 ++ r) (decodeExtended (24#5 ++ r) r) := by
  obtain ⟨key, low, rfl⟩ := exists_append (m := 5) (n := 6) r
  by_cases hskp : key.toNat % 4 = 0
  · obtain ⟨c, rfl⟩ := exists_skpKey hskp
    obtain ⟨sr, dr, rfl⟩ := exists_registers low
    rw [decodeExtended_skp, srOf_pair, drOf_pair]
    exact faithful_ok ⟨rfl, rfl⟩
  · simp only [decodeExtended, key5_append, low6_append]
    split
    case h_1 | h_2 | h_3 | h_4 | h_5 | h_6 | h_7 | h_8 => omega
    case h_9 | h_10 | h_11 => next hkey =>
      obtain rfl := eq_ofNat_of_toNat hkey
      obtain ⟨sr, dr, rfl⟩ := exists_registers low
      rw [srOf_pair, drOf_pair]
      exact faithful_ok ⟨rfl, rfl⟩
    case h_14 | h_18 => next hkey =>
      obtain rfl := eq_ofNat_of_toNat hkey
      exact faithful_ok ⟨rfl, rfl⟩
    case h_16 hkey =>
      obtain rfl := eq_ofNat_of_toNat hkey
      exact faithful_decodeTx low
    case h_12 | h_13 | h_15 | h_17 => next hkey =>
      obtain rfl := eq_ofNat_of_toNat hkey
      exact faithful_decodeExact _ low ⟨rfl, rfl⟩
    case h_19 => exact faithful_error

theorem faithful_decodeIreg (b : Byte) : Faithful o (26#5 ++ (0#3 ++ b)) (decodeIreg w b) := by
  obtain ⟨g, n, rfl⟩ := exists_append (m := 4) (n := 4) b
  simp only [decodeIreg, high4_append, low4_append]
  split
  case h_5 => exact faithful_error
  all_goals
    rename_i hgroup
    obtain rfl := eq_ofNat_of_toNat hgroup
    exact faithful_ok ⟨rfl, rfl⟩

theorem faithful_decodeControl (b : Byte) : Faithful o (26#5 ++ (1#3 ++ b)) (decodeControl w b) := by
  unfold decodeControl
  split
  case h_13 => exact faithful_error
  all_goals
    rename_i hcode
    obtain rfl := eq_ofNat_of_toNat hcode
    exact faithful_ok ⟨rfl, rfl⟩

theorem faithful_decodeBlock (b : Byte) : Faithful o (26#5 ++ (5#3 ++ b)) (decodeBlock w b) := by
  obtain ⟨b7, low, rfl⟩ := exists_append (m := 1) (n := 7) b
  obtain ⟨n, t, rfl⟩ := exists_append (m := 4) (n := 3) low
  simp only [decodeBlock, bit7_append, levelOf_append, type3_append]
  split
  case h_1 hbit htype =>
    obtain rfl : b7 = 1#1 := BitVec.eq_of_toNat_eq hbit
    obtain rfl : t = 0#3 := BitVec.eq_of_toNat_eq htype
    exact faithful_ok ⟨rfl, rfl⟩
  case h_2 => exact faithful_error

theorem spells_decodeInter (b : Byte) : Spells o (decodeInter b) (26#5 ++ (7#3 ++ b)) := by
  obtain ⟨b7, low, rfl⟩ := exists_append (m := 1) (n := 7) b
  obtain ⟨n, t, rfl⟩ := exists_append (m := 4) (n := 3) low
  obtain ⟨r, rfl⟩ := exists_regField t
  obtain rfl | rfl : b7 = 0#1 ∨ b7 = 1#1 := by revert b7; decide
  · exact (decodeInter_irw n r).symm ▸ ⟨rfl, rfl⟩
  · exact (decodeInter_irr n r).symm ▸ ⟨rfl, rfl⟩

theorem faithful_decodeSystem (r : BitVec 11) : Faithful o (26#5 ++ r) (decodeSystem w r) := by
  obtain ⟨s, b, rfl⟩ := exists_append (m := 3) (n := 8) r
  simp only [decodeSystem, sub3_append, low8_append]
  split
  case h_1 hsub => exact eq_ofNat_of_toNat hsub ▸ faithful_decodeIreg b
  case h_2 hsub => exact eq_ofNat_of_toNat hsub ▸ faithful_decodeControl b
  case h_6 hsub => exact eq_ofNat_of_toNat hsub ▸ faithful_decodeBlock b
  case h_8 =>
    have hsub : s.toNat = 7 := by simp only [imp_false] at *; omega
    exact eq_ofNat_of_toNat hsub ▸ faithful_ok (spells_decodeInter b)
  all_goals
    rename_i hsub
    obtain rfl := eq_ofNat_of_toNat hsub
    exact faithful_ok ⟨rfl, rfl⟩

theorem faithful_decodeFixed (w : Word) : Faithful o w (decodeFixed w) := by
  obtain ⟨op, r, rfl⟩ := exists_append (m := 5) (n := 11) w
  simp only [decodeFixed, opOf_append, restOf_append]
  split
  case h_25 hop => exact eq_ofNat_of_toNat hop ▸ faithful_decodeExtended r
  case h_27 hop => exact eq_ofNat_of_toNat hop ▸ faithful_decodeSystem r
  case h_28 hop => exact eq_ofNat_of_toNat hop ▸ faithful_decodeShift r
  all_goals refine faithful_ok ?_
  case h_23 hop => exact eq_ofNat_of_toNat hop ▸ spells_decodeJump r
  case h_26 hop => exact eq_ofNat_of_toNat hop ▸ spells_decodeRop r
  case h_29 hop => exact eq_ofNat_of_toNat hop ▸ ⟨rfl, rfl⟩
  case h_30 hop => exact eq_ofNat_of_toNat hop ▸ ⟨rfl, rfl⟩
  case h_31 hop => exact eq_ofNat_of_toNat hop ▸ spells_decodeArgument r
  case h_32 =>
    have hop : op.toNat = 31 := by simp only [imp_false] at *; omega
    exact eq_ofNat_of_toNat hop ▸ spells_decodeBit r
  all_goals
    rename_i hop
    obtain rfl := eq_ofNat_of_toNat hop
    obtain ⟨m, rfl⟩ := exists_memOperand r
    rw [MemOperand.ofBits_bits]
    exact ⟨rfl, rfl⟩

end Faithful

/-! ## The words of open opcodes -/

theorem spells_of_mem_single {o : Opcodes} {e : Word × Instr} (h : e ∈ o.single) : Spells o e.2 e.1 := by
  have hall : ∀ e ∈ o.single, (encode o e.2, e.2.core) = e :=
    List.map_eq_map_iff.mp (show o.single.map (fun e => (encode o e.2, e.2.core)) = o.single.map id from rfl)
  obtain ⟨hword, hcore⟩ := Prod.ext_iff.mp (hall e h)
  exact ⟨hword, hcore⟩

theorem spells_of_mem_table {o : Opcodes} {w : Word} {i : Instr} (h : (w, i) ∈ o.table) : Spells o i w := by
  simp only [Opcodes.table, List.mem_append, mem_deltaFamily, mem_levelFamily, or_assoc] at h
  rcases h with hsingle | ⟨_, rfl, rfl⟩ | ⟨_, rfl, rfl⟩ | ⟨_, rfl, rfl⟩ | ⟨_, rfl, rfl⟩ | ⟨_, rfl, rfl⟩ |
    ⟨_, rfl, rfl⟩ | ⟨_, rfl, rfl⟩ | ⟨_, rfl, rfl⟩ | ⟨_, rfl, rfl⟩
  · exact spells_of_mem_single hsingle
  all_goals exact ⟨rfl, rfl⟩

theorem faithful_decodeWord (o : Opcodes) (w : Word) : Faithful o w (decodeWord o w) := fun i h => by
  rcases decodeWord_ok h with hfixed | hopen
  · exact faithful_decodeFixed w i hfixed
  · exact spells_of_mem_table hopen

/-- Settles O2: block by block for the fixed opcodes, row by row for the open ones. -/
theorem encodeInvertsDecode : Obligations.EncodeInvertsDecode := fun o w i h =>
  have hspells := faithful_decodeWord o w i h
  ⟨hspells.word, hspells.core⟩

/-- Settles O3: nine words, evaluated. -/
theorem sourceWordsDecode : Obligations.SourceWordsDecode :=
  ⟨rfl, rfl, rfl, rfl, rfl, rfl, rfl, rfl, rfl⟩

end Sys2Proof.Proofs
end

section
/-! PROOFS. The words that are no instruction (R107, R110, R112, R113, R462). Safety.lean says them by value; here they are
taken field by field. The decoder answers nothing for them, or an instruction that ends in the same fault. -/

namespace Sys2Proof.Proofs

open Sys2Proof Sys2Proof.Machine

/-! ## Unassigned words, field by field -/

theorem toNat_append_eq {m n : Nat} (a : BitVec m) (b : BitVec n) : (a ++ b).toNat = a.toNat * 2 ^ n + b.toNat := by
  rw [BitVec.toNat_append, ← Nat.shiftLeft_add_eq_or_of_lt b.isLt, Nat.shiftLeft_eq]

theorem toNat_opField (op : BitVec 5) (r : BitVec 11) : (op ++ r : Word).toNat = op.toNat * 2048 + r.toNat :=
  toNat_append_eq op r

theorem toNat_keyField (op key : BitVec 5) (low : BitVec 6) :
    (op ++ (key ++ low) : Word).toNat = op.toNat * 2048 + key.toNat * 64 + low.toNat := by
  have hkey : (key ++ low).toNat = key.toNat * 64 + low.toNat := toNat_append_eq key low
  rw [toNat_opField, hkey, Nat.add_assoc]

theorem toNat_subField (op : BitVec 5) (s : BitVec 3) (b : Byte) :
    (op ++ (s ++ b) : Word).toNat = op.toNat * 2048 + s.toNat * 256 + b.toNat := by
  have hsub : (s ++ b).toNat = s.toNat * 256 + b.toNat := toNat_append_eq s b
  rw [toNat_opField, hsub, Nat.add_assoc]

theorem op_of_unassigned {op r : Nat} (hr : r < 2048) (h : unassignedFixed (op * 2048 + r) = true) :
    op = 24 ∨ op = 26 ∨ op = 27 ∨ op = 28 := by
  unfold unassignedFixed at h
  split_ifs at h <;> simp at h <;> omega

/-- Bits 10-6 and 5-0 of an unassigned extended word: those of no row of R109. -/
theorem key_of_unassigned {key low : Nat} (hkey : key < 32) (hlow : low < 64)
    (h : unassignedFixed (24 * 2048 + key * 64 + low) = true) :
    key % 4 ≠ 0 ∧ key ≠ 6 ∧ key ≠ 10 ∧ key ≠ 14 ∧ key ≠ 30 ∧
      (key = 18 ∨ key = 22 ∨ key = 26 ∨ key = 29 → low ≠ 0) ∧ (key = 25 → 8 < low) ∧ (key = 27 → low % 8 = 7) := by
  unfold unassignedFixed at h
  split_ifs at h <;> simp at h <;> omega

/-- Bits 10-8 and 7-0 of an unassigned system word: those of no row of R110. -/
theorem subgroup_of_unassigned {sub b : Nat} (hsub : sub < 8) (hb : b < 256)
    (h : unassignedFixed (26 * 2048 + sub * 256 + b) = true) :
    sub = 0 ∧ b / 16 % 4 ≠ 0 ∨ sub = 1 ∧ (b = 3 ∨ b = 9 ∨ b = 11 ∨ b = 12 ∨ 16 ≤ b) ∨
      sub = 5 ∧ (b / 128 = 0 ∨ b % 8 ≠ 0) := by
  unfold unassignedFixed at h
  split_ifs at h <;> simp at h <;> omega

theorem bitSix_of_unassigned {top n : Nat} (htop : top < 32) (hn : n < 64)
    (h : unassignedFixed (27 * 2048 + top * 64 + n) = true) : top % 2 = 1 := by
  unfold unassignedFixed at h
  split_ifs at h <;> simp at h <;> omega

/-! ## What such a word decodes to -/

/-- The instructions that are decoded and answer as an unassigned word does (R113, R432, R430). -/
inductive AnswersIllegal (cpu : CpuModel) : Instr → Prop
  | iot (addr : BitVec 11) : AnswersIllegal cpu (.iot addr)
  | movew (ty : BitVec 6) (reserved : movewOk ty = false) : AnswersIllegal cpu (.movew ty)
  | versn (model : cpu = .nd100) : AnswersIllegal cpu .versn

/-- The decoder answers no instruction, or one that answers as an unassigned word. -/
def OnlyIllegal (cpu : CpuModel) (x : Except DecodeError Instr) : Prop := ∀ i, x = .ok i → AnswersIllegal cpu i

section OnlyIllegal

variable {cpu : CpuModel} {w : Word} {i : Instr} {e : DecodeError}

theorem onlyIllegal_error : OnlyIllegal cpu (.error e) := fun _ hi => nomatch hi

theorem onlyIllegal_ok (h : AnswersIllegal cpu i) : OnlyIllegal cpu (.ok i) := fun _ hi => Except.ok.inj hi ▸ h

theorem onlyIllegal_decodeExact {r : BitVec 6} (h : r.toNat ≠ 0) : OnlyIllegal cpu (decodeExact w r i) := by
  have hr : r ≠ 0 := fun h0 => h (h0 ▸ rfl)
  simp only [decodeExact, if_neg hr]
  exact onlyIllegal_error

theorem onlyIllegal_decodeTx {r : BitVec 6} (h : r.toNat % 8 = 7) : OnlyIllegal cpu (decodeTx w r) := by
  have hlow : (low3 r).toNat = 7 := by simpa [low3] using h
  simp only [decodeTx, hlow]
  exact onlyIllegal_error

theorem onlyIllegal_decodeExtended {r : BitVec 11} (h : unassignedFixed (24#5 ++ r : Word).toNat = true) :
    OnlyIllegal cpu (decodeExtended w r) := by
  obtain ⟨key, low, rfl⟩ := exists_append (m := 5) (n := 6) r
  obtain ⟨hskp, hexr, hrmpy, hrdiv, hident, hexact, hmovew, htx⟩ :=
    key_of_unassigned key.isLt low.isLt (toNat_keyField 24#5 key low ▸ h)
  simp only [decodeExtended, key5_append, low6_append]
  split
  case h_12 hkey => exact onlyIllegal_decodeExact (hexact (.inl hkey))
  case h_13 hkey => exact onlyIllegal_decodeExact (hexact (.inr (.inl hkey)))
  case h_14 hkey =>
    exact onlyIllegal_ok (.movew low (decide_eq_false (Nat.not_le.mpr (hmovew hkey))))
  case h_15 hkey => exact onlyIllegal_decodeExact (hexact (.inr (.inr (.inl hkey))))
  case h_16 hkey => exact onlyIllegal_decodeTx (htx hkey)
  case h_17 hkey => exact onlyIllegal_decodeExact (hexact (.inr (.inr (.inr hkey))))
  case h_19 => exact onlyIllegal_error
  all_goals omega

theorem onlyIllegal_decodeIreg {b : Byte} (h : b.toNat / 16 % 4 ≠ 0) : OnlyIllegal cpu (decodeIreg w b) := by
  obtain ⟨g, n, rfl⟩ := exists_append (m := 4) (n := 4) b
  have hb : (g ++ n).toNat = g.toNat * 16 + n.toNat := toNat_append_eq g n
  have hn := n.isLt
  simp only [decodeIreg, high4_append, low4_append]
  split
  case h_5 => exact onlyIllegal_error
  all_goals omega

theorem onlyIllegal_decodeControl {b : Byte}
    (h : b.toNat = 3 ∨ b.toNat = 9 ∨ b.toNat = 11 ∨ b.toNat = 12 ∨ 16 ≤ b.toNat) :
    OnlyIllegal cpu (decodeControl w b) := by
  unfold decodeControl
  split
  case h_13 => exact onlyIllegal_error
  all_goals omega

theorem onlyIllegal_decodeBlock {b : Byte} (h : b.toNat / 128 = 0 ∨ b.toNat % 8 ≠ 0) :
    OnlyIllegal cpu (decodeBlock w b) := by
  have hbit : (bit7 b).toNat = b.toNat / 128 % 2 := by simp [bit7, Nat.shiftRight_eq_div_pow]
  have htype : (type3 b).toNat = b.toNat % 8 := by simp [type3]
  unfold decodeBlock
  split
  case h_1 => omega
  case h_2 => exact onlyIllegal_error

theorem onlyIllegal_decodeSystem {r : BitVec 11} (h : unassignedFixed (26#5 ++ r : Word).toNat = true) :
    OnlyIllegal cpu (decodeSystem w r) := by
  obtain ⟨sub, b, rfl⟩ := exists_append (m := 3) (n := 8) r
  simp only [decodeSystem, sub3_append, low8_append]
  rcases subgroup_of_unassigned sub.isLt b.isLt (toNat_subField 26#5 sub b ▸ h) with
    ⟨hsub, hgroup⟩ | ⟨hsub, hcode⟩ | ⟨hsub, hlrb⟩ <;> simp only [hsub]
  · exact onlyIllegal_decodeIreg hgroup
  · exact onlyIllegal_decodeControl hcode
  · exact onlyIllegal_decodeBlock hlrb

theorem onlyIllegal_decodeShift {r : BitVec 11} (h : unassignedFixed (27#5 ++ r : Word).toNat = true) :
    OnlyIllegal cpu (decodeShift w r) := by
  obtain ⟨top, n, rfl⟩ := exists_append (m := 5) (n := 6) r
  obtain ⟨t, low, rfl⟩ := exists_append (m := 2) (n := 3) top
  obtain ⟨reg, z, rfl⟩ := exists_append (m := 2) (n := 1) low
  have htop : (t ++ (reg ++ z)).toNat = t.toNat * 8 + (reg ++ z).toNat := toNat_append_eq t (reg ++ z)
  have hreg : (reg ++ z).toNat = reg.toNat * 2 + z.toNat := toNat_append_eq reg z
  have hbit := bitSix_of_unassigned (t ++ (reg ++ z)).isLt n.isLt (toNat_keyField 27#5 (t ++ (reg ++ z)) n ▸ h)
  obtain rfl : z = 1#1 := eq_ofNat_of_toNat (by have := z.isLt; omega)
  rw [decodeShift_bitSix]
  exact onlyIllegal_error

theorem onlyIllegal_decodeFixed (h : unassignedFixed w.toNat = true) : OnlyIllegal cpu (decodeFixed w) := by
  obtain ⟨op, r, rfl⟩ := exists_append (m := 5) (n := 11) w
  rcases op_of_unassigned r.isLt (toNat_opField op r ▸ h) with hop | hop | hop | hop <;>
    obtain rfl := eq_ofNat_of_toNat hop
  · exact decodeFixed_extended r ▸ onlyIllegal_decodeExtended h
  · exact decodeFixed_system r ▸ onlyIllegal_decodeSystem h
  · exact decodeFixed_shift r ▸ onlyIllegal_decodeShift h
  · exact decodeFixed_iot r ▸ onlyIllegal_ok (.iot r)

/-- Among the words of open opcodes only that of `VERSN`, on the ND-100, is unassigned. -/
theorem onlyIllegal_decodeWord {o : Opcodes} (h : unassignedWord o cpu w = true) : OnlyIllegal cpu (decodeWord o w) := by
  intro i hi
  simp only [unassignedWord, Bool.and_eq_true, List.all_eq_true, Bool.or_eq_true, bne_iff_ne, beq_iff_eq] at h
  obtain ⟨hfixed, htable⟩ := h
  rcases decodeWord_ok hi with hf | hopen
  · exact onlyIllegal_decodeFixed hfixed i hf
  · obtain hne | ⟨rfl, hcpu⟩ := htable _ hopen
    · exact absurd rfl hne
    · exact .versn hcpu

end OnlyIllegal

/-! ## The reaction (R462, decision D1) -/

theorem exec_answersIllegal {s : State} {i : Instr} (h : AnswersIllegal s.params.cpuModel i) :
    exec i s = .fault (.illegalInstruction (encode s.params.opcodes i)) := by
  cases h with
  | iot addr => rfl
  | movew ty reserved => simp only [exec, execMovew, reserved]; rfl
  | versn model => simp only [exec, execVersn, model]

theorem executed_answersIllegal {s : State} {i : Instr} (h : AnswersIllegal s.params.cpuModel i) :
    executed i s = .fault (.illegalInstruction (encode s.params.opcodes i)) := by
  rw [← exec_eq_executed (fun sr dr hi => by cases hi; cases h) s, exec_answersIllegal h]

theorem step_of_unassigned {s : State} {w : Word} (hon : s.run = .on) (hfetch : fetch (beginStep s) = .ok w)
    (h : unassignedWord s.params.opcodes s.params.cpuModel w = true) : step s = .fault (.illegalInstruction w) := by
  cases hdecode : decodeWord s.params.opcodes w with
  | error e => exact step_of_decode_error hon hfetch hdecode
  | ok i =>
    have hillegal := onlyIllegal_decodeWord h i hdecode
    rw [step_of_decode_ok hon hfetch hdecode, exec_answersIllegal (by rwa [beginStep_params]), beginStep_params,
      (faithful_decodeWord _ w i hdecode).word]

theorem execExr_of_unassigned {s : State} {sr dr : RegField} (hsr : exrOk sr = true)
    (h : unassignedWord s.params.opcodes s.params.cpuModel (s.cur.operand sr) = true) :
    execExr sr dr s = .fault (.illegalInstruction (s.cur.operand sr)) := by
  have hchecked : requireOperand s (.exr sr dr) .exrRegister (exrOk sr) = .ok () := requireOperand_ok.mpr hsr
  simp only [execExr, hchecked]
  cases hdecode : decodeWord s.params.opcodes (s.cur.operand sr) with
  | error e => rfl
  | ok i =>
    have hillegal := onlyIllegal_decodeWord h i hdecode
    simp only [executed_answersIllegal hillegal, (faithful_decodeWord _ _ i hdecode).word]

/-- Settles O4: such a word decodes to nothing, or to an instruction that names the word in the same fault. -/
theorem unassignedWordsFault : Obligations.UnassignedWordsFault :=
  ⟨fun _ _ => step_of_unassigned, fun _ _ _ => execExr_of_unassigned⟩

end Sys2Proof.Proofs
end

section
/-! PROOFS. The reserved operand values (R114, R464, decision D24): the operand check of each instruction that has one. -/

namespace Sys2Proof.Proofs

open Sys2Proof Sys2Proof.Machine

theorem requireOperand_error {s : State} {i : Instr} {why : Reserved} {ok : Bool} (h : ok = false) :
    requireOperand s i why ok = .error (.reservedOperand (encode s.params.opcodes i) why) := by simp [requireOperand, h]

/-- The privilege check comes first (R467). -/
theorem exec_reserved {s : State} {i : Instr} {why : Reserved} {ok : Bool} {rest : Except Fault State}
    (hexec : exec i s = finish (do requirePrivilege s i; requireOperand s i why ok; rest))
    (hpriv : privOk s = true) (hok : ok = false) :
    exec i s = .fault (.reservedOperand (encode s.params.opcodes i) why) := by
  rw [hexec, requirePrivilege_of_ok hpriv, requireOperand_error hok]
  rfl

/-- Each bit operation checks its operand first (R153). -/
theorem exec_bitOperation (s : State) (bn : BitVec 4) (dr : RegField) :
    ∀ i ∈ bitOperations bn dr, ∃ rest : Except Fault State, exec i s = finish (do requireBit s i bn dr; rest) := by
  simp only [bitOperations, List.forall_mem_cons]
  refine ⟨⟨_, rfl⟩, ⟨_, rfl⟩, ⟨_, rfl⟩, ⟨_, rfl⟩, ⟨_, rfl⟩, ⟨_, rfl⟩, ⟨_, rfl⟩, ⟨_, rfl⟩, ⟨_, rfl⟩, ⟨_, rfl⟩,
    ⟨_, rfl⟩, ⟨_, rfl⟩, ⟨_, rfl⟩, ⟨_, rfl⟩, ⟨_, rfl⟩, ⟨_, rfl⟩, List.forall_mem_nil _⟩

theorem bitOperation_reserved {s : State} {bn : BitVec 4} {i : Instr} (hbn : 8 ≤ bn.toNat)
    (hi : i ∈ bitOperations bn .code0) :
    exec i s = .fault (.reservedOperand (encode s.params.opcodes i) .stsBitAbove7) := by
  obtain ⟨rest, hexec⟩ := exec_bitOperation s bn .code0 i hi
  have hok : bitOperandOk bn .code0 = false := decide_eq_false (Nat.not_lt.mpr hbn)
  rw [hexec, requireBit, requireOperand_error hok]
  rfl

theorem exr_reserved {s : State} {sr dr : RegField} (h : sr = .code0 ∨ sr = .p) :
    exec (.exr sr dr) s = .fault (.reservedOperand (encode s.params.opcodes (.exr sr dr)) .exrRegister) := by
  have hok : exrOk sr = false := by rcases h with rfl | rfl <;> rfl
  simp only [exec, execExr, requireOperand_error hok]

theorem trrOk_eq_false {n : BitVec 4} (h : n = 0o4 ∨ n = 0o14 ∨ n = 0o16) : trrOk n = false := by
  rcases h with rfl | rfl | rfl <;> rfl

theorem maskedOk_eq_false {n : BitVec 4} (hsts : n ≠ 1) (hpid : n ≠ 6) (hpie : n ≠ 7) : maskedOk n = false := by
  simp only [maskedOk, Bool.or_eq_false_iff, beq_eq_false_iff_ne]
  exact ⟨⟨hsts, hpid⟩, hpie⟩

theorem identOk_eq_false {code : BitVec 6} (h10 : code ≠ 0o04) (h11 : code ≠ 0o11) (h12 : code ≠ 0o22)
    (h13 : code ≠ 0o43) : identOk code = false := by
  simp only [identOk, Bool.or_eq_false_iff, beq_eq_false_iff_ne]
  exact ⟨⟨⟨h10, h11⟩, h12⟩, h13⟩

/-- Settles O14: the operand check of each instruction, after the privilege check where there is one. -/
theorem reservedOperandsFault : Obligations.ReservedOperandsFault := by
  intro s
  refine ⟨fun _ _ => bitOperation_reserved, fun _ _ => exr_reserved, fun hpriv => ⟨?tra, ?trr, ?masked, ?ident⟩⟩
  case tra => exact exec_reserved rfl hpriv rfl
  case trr => exact fun _ hn => exec_reserved rfl hpriv (trrOk_eq_false hn)
  case masked =>
    intro n hsts hpid hpie
    have hok := maskedOk_eq_false hsts hpid hpie
    exact ⟨exec_reserved rfl hpriv hok, exec_reserved rfl hpriv hok⟩
  case ident => exact fun _ h10 h11 h12 h13 => exec_reserved rfl hpriv (identOk_eq_false h10 h11 h12 h13)

end Sys2Proof.Proofs
end

section
/-! PROOFS. The argument instructions (R130 to R138): the four loads, and the four additions as one addition to the register a
code names. -/

namespace Sys2Proof.Proofs

open Sys2Proof Sys2Proof.Machine

/-! ## Loads (R131 to R134, decision D6) -/

/-- Settles O19: each loads one register of the stepped set, and STS stands in it as it was. -/
theorem argumentLoads : Obligations.ArgumentLoads := by
  unfold Obligations.ArgumentLoads
  intro arg s
  refine ⟨?saa, ?sab, ?sat, ?sax⟩
  case saa => exact .next rfl (setsRegisters_setCur s { s.cur.step with a := sext8 arg })
  case sab => exact .next rfl (setsRegisters_setCur s { s.cur.step with b := sext8 arg })
  case sat => exact .next rfl (setsRegisters_setCur s { s.cur.step with t := sext8 arg })
  case sax => exact .next rfl (setsRegisters_setCur s { s.cur.step with x := sext8 arg })

/-! ## Additions (R135 to R138, decision D8) -/

/-- Setting the adder's flags changes STS and no register (R30). -/
theorem addFlags_eq (r : Regs) (x : AdderResult) : r.addFlags x = { r with sts := addStatus r.sts x.carry x.ovf } := by
  refine Regs.ext_operand _ _ (addFlags_sts r x) fun f _ => ?_
  cases f <;> simp [Regs.operand]

theorem sext8_toInt (arg : Byte) : (sext8 arg).toInt = arg.toInt := BitVec.toInt_signExtend_of_le (by decide)

/-- The adder without a carry in, on a sign-extended argument, over numbers (R30, R130). -/
theorem adder_sext8 (old : Word) (arg : Byte) :
    adder old (sext8 arg) false =
      { res := old + sext8 arg
        carry := decide (65536 ≤ old.toNat + (sext8 arg).toNat)
        ovf := outOfRange (old.toInt + arg.toInt) } := by
  have hres : (adder old (sext8 arg) false).res = old + sext8 arg := by simp [adder_res]
  have hovf : (adder old (sext8 arg) false).ovf = outOfRange (old.toInt + arg.toInt) := by simp [adder_ovf, sext8_toInt]
  rw [← hres, ← hovf]
  rfl

/-- An instruction that adds its argument to the register `dr` and leaves the adder's flags. -/
theorem completes_argumentAdd {i : Instr} {s : State} {arg : Byte} (dr : RegField)
    (hexec : exec i s = .next (s.setCur
      ((s.cur.step.addFlags (adder (s.cur.operand dr) (sext8 arg) false)).setDest dr
        (adder (s.cur.operand dr) (sext8 arg) false).res))) :
    Completes i s fun t => SetsRegisters s t
      ({ s.cur with
          p := s.cur.p + 1
          sts := addStatus s.cur.sts (decide (65536 ≤ (s.cur.operand dr).toNat + (sext8 arg).toNat))
            (outOfRange ((s.cur.operand dr).toInt + arg.toInt)) }.setDest dr (s.cur.operand dr + sext8 arg)) := by
  rw [adder_sext8, addFlags_eq] at hexec
  exact .next hexec (setsRegisters_setCur s _)

/-- Settles O20: A, B, T and X are the registers of four codes. -/
theorem argumentAdds : Obligations.ArgumentAdds := by
  unfold Obligations.ArgumentAdds
  intro arg s
  exact ⟨completes_argumentAdd .a rfl, completes_argumentAdd .b rfl, completes_argumentAdd .t rfl,
    completes_argumentAdd .x rfl⟩

end Sys2Proof.Proofs
end

section
/-! PROOFS. The operand of a memory-reference instruction (R70, R140): its encoding, the word that is read, and the fault of an
access on the way to it (R63, R463). -/

namespace Sys2Proof.Proofs

open Sys2Proof Sys2Proof.Machine

/-! ## The word (R91) -/

theorem memOperand_bits_toNat (m : MemOperand) : m.bits.toNat = m.value := by
  have hbit (b : Bool) : (BitVec.ofBool b).toNat = if b then 1 else 0 := by cases b <;> rfl
  simp only [MemOperand.bits, toNat_append_eq, hbit, MemOperand.value]
  split <;> split <;> split <;> omega

theorem encodeMem_toNat (op : BitVec 5) (m : MemOperand) : (encodeMem op m).toNat = op.toNat * 2048 + m.value := by
  rw [encodeMem, toNat_opField, memOperand_bits_toNat]

/-! ## The fault of a failing access -/

/-- The fault of an access to memory that fails (R63, R463). -/
def IsTranslationFault (f : Fault) : Prop := ∃ pa kind, f = .translationFault pa kind

variable {s : State} {m : MemOperand} {addr ea v : Word} {kind : Access} {f : Fault}

theorem isTranslationFault_of_installed {pa : PhysAddr} (h : installed s pa = .error f) : IsTranslationFault f :=
  ⟨pa, .nonexistent, (installed_error.mp h).2⟩

theorem isTranslationFault_of_paged {o : Option PhysAddr} (h : paged s addr kind o = .error f) : IsTranslationFault f := by
  cases o with
  | none => exact ⟨bankZero addr, kind, (Except.error.inj h).symm⟩
  | some pa => exact isTranslationFault_of_installed h

theorem isTranslationFault_of_locate (h : locate s addr kind = .error f) : IsTranslationFault f := by
  unfold locate at h
  split at h
  · exact isTranslationFault_of_paged h
  · exact isTranslationFault_of_installed h

theorem memRead_error : memRead s addr = .error f ↔ locate s addr .read = .error f := by
  unfold memRead
  cases locate s addr .read <;> simp

theorem isTranslationFault_of_memRead (h : memRead s addr = .error f) : IsTranslationFault f :=
  isTranslationFault_of_locate (memRead_error.mp h)

/-- The one access of an address is the read of the indirect word. -/
theorem effAddr_error (h : effAddr s m = .error f) : m.i = true ∧ memRead s (directAddr s.cur m) = .error f := by
  cases hi : m.i with
  | false => rw [effAddr_of_direct hi] at h; cases h
  | true =>
    rw [effAddr_of_indirect hi] at h
    cases hread : memRead s (directAddr s.cur m) <;> simp_all [Except.map]

/-! ## The operand -/

theorem memOperand_eq (hea : effAddr s m = .ok ea) : memOperand s m = memRead s ea := by
  rw [memOperand, hea, ok_bind]

/-- No operand: the address is not formed, or the word at it is not read. -/
theorem memOperand_error :
    memOperand s m = .error f ↔ effAddr s m = .error f ∨ ∃ ea, effAddr s m = .ok ea ∧ memRead s ea = .error f := by
  unfold memOperand
  cases effAddr s m <;> simp

theorem isTranslationFault_of_memOperand (h : memOperand s m = .error f) : IsTranslationFault f := by
  rcases memOperand_error.mp h with hea | ⟨ea, -, hread⟩
  · exact isTranslationFault_of_memRead (effAddr_error hea).2
  · exact isTranslationFault_of_memRead hread

/-! ## Instructions that read their operand and write registers -/

/-- The meaning of `i` is to read the operand `m` and to write the registers `g` makes of it. -/
def ReadsInto (i : Instr) (s : State) (m : MemOperand) (g : Word → Regs) : Prop :=
  exec i s = finish do
    let v ← memOperand s m
    return s.setCur (g v)

variable {i : Instr} {g : Word → Regs}

theorem ReadsInto.completes (h : ReadsInto i s m g) (hea : effAddr s m = .ok ea) (hread : memRead s ea = .ok v) :
    Completes i s fun t => SetsRegisters s t (g v) :=
  .ok h (by rw [memOperand_eq hea, hread]; rfl) (setsRegisters_setCur s (g v))

theorem ReadsInto.fault (h : ReadsInto i s m g) (hf : memOperand s m = .error f) : exec i s = .fault f := by
  rw [h, hf]
  rfl

end Sys2Proof.Proofs
end

section
/-! PROOFS. The memory-reference arithmetic and logic (R140 to R145) and `MIN` (R306). -/

namespace Sys2Proof.Proofs

open Sys2Proof Sys2Proof.Machine

/-! ## Sum, difference and product over numbers (R30, R142, R145) -/

theorem adder_eq (a b : Word) (cin : Bool) :
    adder a b cin =
      { res := a + b + BitVec.ofNat 16 cin.toNat
        carry := decide (65536 ≤ a.toNat + b.toNat + cin.toNat)
        ovf := outOfRange (a.toInt + b.toInt + cin.toNat) } := by
  rw [← adder_res, ← adder_ovf]
  rfl

theorem adder_without_carryIn (a b : Word) :
    adder a b false =
      { res := a + b
        carry := decide (65536 ≤ a.toNat + b.toNat)
        ovf := outOfRange (a.toInt + b.toInt) } := by
  simp [adder_eq]

theorem toInt_complement (b : Word) : (~~~b).toInt = -b.toInt - 1 := by
  have hnot : (~~~b).toNat = 65535 - b.toNat := BitVec.toNat_not
  have hlt := b.isLt
  rw [toInt_eq_msb, toInt_eq_msb, msb_eq_le, msb_eq_le, hnot]
  by_cases hneg : 32768 ≤ b.toNat <;> simp [hneg] <;> omega

/-- Adding the one's complement and one subtracts: the carry is the absence of a borrow (R142). -/
theorem adder_complement (a b : Word) :
    adder a (~~~b) true =
      { res := a - b
        carry := decide (b.toNat ≤ a.toNat)
        ovf := outOfRange (a.toInt - b.toInt) } := by
  have hcarry : 65536 ≤ a.toNat + (~~~b).toNat + 1 ↔ b.toNat ≤ a.toNat := by
    rw [BitVec.toNat_not]
    omega
  have hsum : a.toInt + (~~~b).toInt + (1 : Nat) = a.toInt - b.toInt := by
    rw [toInt_complement]
    omega
  rw [← compareWords_res, adder_res, adder_eq]
  simp only [Bool.toNat_true, hcarry, hsum]

/-- The low half of the exact product is the product of words. -/
theorem ofInt_signedProduct (a b : Word) : BitVec.ofInt 16 (signedProduct a b) = a * b := by
  rw [signedProduct, BitVec.ofInt_mul, BitVec.ofInt_toInt, BitVec.ofInt_toInt]

/-- Setting the overflow flags keeps C (bit 6) and every register (R29). -/
theorem setOverflow_eq (r : Regs) (o : Bool) :
    r.setOverflow o = { r with sts := addStatus r.sts (r.sts.getLsbD 6) o } := by
  refine Regs.ext_operand _ _ (setOverflow_sts r o) fun f _ => ?_
  cases f <;> simp [Regs.operand]

/-- A skip writes P alone (R12, R24). -/
theorem skipIf_eq (r : Regs) (c : Bool) : r.skipIf c = { r with p := if c then r.p + 2 else r.p + 1 } := by
  cases c <;> rfl

/-! ## ADD, AND, ORA (R141, R143, R144) -/

section Meanings

variable (m : MemOperand) (s : State)

theorem readsInto_add : ReadsInto (.add m) s m fun v =>
    { s.cur with
      p := s.cur.p + 1, a := s.cur.a + v
      sts := addStatus s.cur.sts (decide (65536 ≤ s.cur.a.toNat + v.toNat)) (outOfRange (s.cur.a.toInt + v.toInt)) } := by
  have hexec : ReadsInto (.add m) s m fun v =>
      { s.cur.step.addFlags (adder s.cur.a v false) with a := (adder s.cur.a v false).res } := rfl
  simp only [adder_without_carryIn, addFlags_eq] at hexec
  exact hexec

theorem readsInto_and : ReadsInto (.and m) s m fun v => { s.cur with p := s.cur.p + 1, a := s.cur.a &&& v } := rfl

theorem readsInto_ora : ReadsInto (.ora m) s m fun v => { s.cur with p := s.cur.p + 1, a := s.cur.a ||| v } := rfl

/-! ## SUB, MPY, MIN (R142, R145, R306) -/

theorem readsInto_sub : ReadsInto (.sub m) s m fun v =>
    { s.cur with
      p := s.cur.p + 1, a := s.cur.a - v
      sts := addStatus s.cur.sts (decide (v.toNat ≤ s.cur.a.toNat)) (outOfRange (s.cur.a.toInt - v.toInt)) } := by
  have hexec : ReadsInto (.sub m) s m fun v =>
      { s.cur.step.addFlags (adder s.cur.a (~~~v) true) with a := (adder s.cur.a (~~~v) true).res } := rfl
  simp only [adder_complement, addFlags_eq] at hexec
  exact hexec

theorem readsInto_mpy : ReadsInto (.mpy m) s m fun v =>
    { s.cur with
      p := s.cur.p + 1, a := s.cur.a * v
      sts := addStatus s.cur.sts (s.cur.sts.getLsbD 6) (decide (32767 < (s.cur.a.toInt * v.toInt).natAbs)) } := by
  have hexec : ReadsInto (.mpy m) s m fun v =>
      { s.cur.step.setOverflow (productOverflow (signedProduct s.cur.a v)) with
        a := BitVec.ofInt 16 (signedProduct s.cur.a v) } := rfl
  simp only [ofInt_signedProduct, setOverflow_eq] at hexec
  exact hexec

/-- `MIN` once its address is formed: the read, the write, and a skip on zero (R306). -/
theorem exec_min {ea : Word} (hea : effAddr s m = .ok ea) :
    exec (.min m) s = finish do
      let v ← memRead s ea
      let pa ← locate s ea .write
      return (s.physWrite pa (v + 1)).setCur { s.cur with p := if v + 1 = 0 then s.cur.p + 2 else s.cur.p + 1 } := by
  have hexec : exec (.min m) s = execMin m s := rfl
  simp only [hexec, execMin, hea, ok_bind, skipIf_eq, beq_iff_eq]

end Meanings

section Min

variable {m : MemOperand} {s : State} {ea v : Word} {f : Fault}

theorem completes_min {pa : PhysAddr} (hea : effAddr s m = .ok ea) (hread : memRead s ea = .ok v)
    (hwrite : locate s ea .write = .ok pa) (hwf : s.mem.wf = true) :
    Completes (.min m) s fun t => SetsAndStores s t
      { s.cur with p := if v + 1 = 0 then s.cur.p + 2 else s.cur.p + 1 } [(pa, v + 1)] :=
  .ok (exec_min m s hea) (by rw [hread, ok_bind, hwrite]; rfl) (setsAndStores_of hwf rfl)

theorem min_fault_of_write (hea : effAddr s m = .ok ea) (hread : memRead s ea = .ok v)
    (hwrite : locate s ea .write = .error f) : exec (.min m) s = .fault f := by
  rw [exec_min m s hea, hread, ok_bind, hwrite]
  rfl

theorem min_fault_of_operand (h : memOperand s m = .error f) : exec (.min m) s = .fault f := by
  rcases memOperand_error.mp h with hea | ⟨ea, hea, hread⟩
  · have hexec : exec (.min m) s = execMin m s := rfl
    rw [hexec, execMin, hea]
    rfl
  · rw [exec_min m s hea, hread]
    rfl

end Min

/-- Settles O21: the three words, then each instruction as a read of its operand. -/
theorem addAndOr : Obligations.AddAndOr := by
  unfold Obligations.AddAndOr
  intro m s
  refine ⟨encodeMem_toNat 12 m, encodeMem_toNat 14 m, encodeMem_toNat 15 m, fun ea v hea hread => ?reads,
    fun f hfails => ?fails⟩
  case reads =>
    exact ⟨(readsInto_add m s).completes hea hread, (readsInto_and m s).completes hea hread,
      (readsInto_ora m s).completes hea hread⟩
  case fails =>
    have hf := memOperand_error.mpr hfails
    exact ⟨isTranslationFault_of_memOperand hf, (readsInto_add m s).fault hf, (readsInto_and m s).fault hf,
      (readsInto_ora m s).fault hf⟩

/-- Settles O22: as O21 for `SUB` and `MPY`; `MIN` writes after its read. -/
theorem subtractMultiplyIncrement : Obligations.SubtractMultiplyIncrement := by
  unfold Obligations.SubtractMultiplyIncrement
  intro m s
  refine ⟨fun ea v hea hread => ?reads, fun f hfails => ?fails⟩
  case reads =>
    exact ⟨(readsInto_sub m s).completes hea hread, (readsInto_mpy m s).completes hea hread,
      fun _ hwrite hwf => completes_min hea hread hwrite hwf, fun _ hwrite => min_fault_of_write hea hread hwrite⟩
  case fails =>
    have hf := memOperand_error.mpr hfails
    exact ⟨isTranslationFault_of_memOperand hf, (readsInto_sub m s).fault hf, (readsInto_mpy m s).fault hf,
      min_fault_of_operand hf⟩

end Sys2Proof.Proofs
end

section
/-! PROOFS. The bit instructions (R150 to R169): each checks its operand and then writes registers of the current level. -/

namespace Sys2Proof.Proofs

open Sys2Proof Sys2Proof.Machine

/-! ## The word (R93, R150) -/

theorem encodeBit_toNat (type bn : BitVec 4) (dr : RegField) :
    (encodeBit type bn dr).toNat = 0o174000 + type.toNat * 0o200 + (8 * bn.toNat + dr.bits.toNat) := by
  have hword : (encodeBit type bn dr).toNat = 31 * 2 ^ 11 + (type ++ (bn ++ dr.bits)).toNat := toNat_append_eq 31#5 _
  have htype : (type ++ (bn ++ dr.bits)).toNat = type.toNat * 2 ^ 7 + (bn ++ dr.bits).toNat := toNat_append_eq type _
  have hfield : (bn ++ dr.bits).toNat = bn.toNat * 2 ^ 3 + dr.bits.toNat := toNat_append_eq bn dr.bits
  omega

/-! ## The addressed bit and K in a register set (R151, R152) -/

theorem bit_eq_addressedBit (s : State) (bn : BitVec 4) (dr : RegField) : s.cur.bit bn dr = addressedBit s bn dr := by
  cases dr <;> rfl

theorem setBit_sts (r old : Regs) (bn : BitVec 4) (dr : RegField) (v : Bool) :
    (r.setBit old bn dr v).sts = if dr = .code0 then setBitTo r.sts bn.toNat v else r.sts := by
  cases dr <;> rfl

theorem setBit_operand (r old : Regs) (bn : BitVec 4) (dr : RegField) (v : Bool) {f : RegField} (hf : f ≠ .code0) :
    (r.setBit old bn dr v).operand f = if f = dr then setBitTo (old.operand dr) bn.toNat v else r.operand f := by
  by_cases hdr : dr = .code0
  · subst hdr
    rw [if_neg hf]
    cases f <;> rfl
  · have hset : r.setBit old bn dr v = r.setDest dr (setBitTo (old.operand dr) bn.toNat v) := by
      cases dr with
      | code0 => exact absurd rfl hdr
      | _ => rfl
    rw [hset, Regs.setDest_operand r dr f _ hf]

theorem setFlag_operand (r : Regs) (g : Flag) (v : Bool) (f : RegField) : (r.setFlag g v).operand f = r.operand f := by
  cases f <;> rfl

theorem step_operand (r : Regs) {f : RegField} (hf : f ≠ .p) : r.step.operand f = r.operand f := by
  cases f with
  | p => exact absurd rfl hf
  | _ => rfl

/-- K is bit 2 of STS (R27). -/
theorem setBitTo_two_eq_withK : ∀ (sts : Byte) (v : Bool), setBitTo sts 2 v = withK sts v := by decide

theorem loadK_eq (s : State) (v : Bool) :
    loadK s v = { s.cur with p := s.cur.p + 1, sts := withK s.cur.sts v } := by
  rw [← setBitTo_two_eq_withK]
  rfl

section Operations

variable {s : State} {bn : BitVec 4} {dr : RegField} {i : Instr} {r : Regs} {v w : Bool}

/-! ## Writing the addressed bit -/

theorem bitEffect_storeBit : BitEffect s (s.setCur (storeBit s bn dr v)) bn dr (some v) none := by
  obtain ⟨hcur, hlevels, hcontrol, hmemory⟩ := setsRegisters_setCur s (storeBit s bn dr v)
  refine ⟨fun j hj => ?sts, fun j hj => ?p, fun f hf hfp j hj => ?operand, hlevels, hcontrol, hmemory⟩
  case sts =>
    rw [hcur, storeBit, setBit_sts]
    by_cases hdr : dr = .code0
    · rw [if_pos hdr, setBitTo_bit _ _ _ _ hj]
      simp [hdr]
    · simp [hdr]
  case p =>
    have hp : (storeBit s bn dr v).p = if .p = dr then setBitTo (s.cur.operand dr) bn.toNat v else s.cur.p + 1 :=
      setBit_operand s.cur.step s.cur bn dr v (f := .p) (by decide)
    rw [hcur, hp]
    by_cases hdr : dr = .p
    · subst hdr
      rw [if_pos rfl, setBitTo_bit _ _ _ _ hj]
      simp [Regs.operand]
    · simp [hdr, Ne.symm hdr]
  case operand =>
    rw [hcur, storeBit, setBit_operand _ _ _ _ _ hf, step_operand _ hfp]
    by_cases hdr : f = dr
    · rw [if_pos hdr, setBitTo_bit _ _ _ _ hj]
      simp [hdr]
    · simp [hdr]

/-- K is written after the bit (R162, R163). -/
theorem bitEffect_setK {bit : Option Bool} (h : BitEffect s (s.setCur r) bn dr bit none) :
    BitEffect s (s.setCur (r.setFlag .k v)) bn dr bit (some v) := by
  obtain ⟨hsts, hp, hoperand, -⟩ := h
  obtain ⟨hcur, hlevels, hcontrol, hmemory⟩ := setsRegisters_setCur s (r.setFlag .k v)
  simp only [State.setCur_cur] at hsts hp hoperand
  refine ⟨fun j hj => ?sts, fun j hj => ?p, fun f hf hfp j hj => ?operand, hlevels, hcontrol, hmemory⟩
  case sts =>
    rw [hcur, Regs.setFlag_sts, setBitTo_bit _ _ _ _ hj, hsts j hj]
    by_cases hk : j = 2 <;> simp [hk, Flag.pos]
  case p =>
    rw [hcur]
    exact hp j hj
  case operand =>
    rw [hcur, setFlag_operand]
    exact hoperand f hf hfp j hj

/-! ## Completion and the reserved operand (R153) -/

/-- A bit operation whose operand check passes ends in the registers its meaning gives. -/
theorem completes_bitOperation {post : State → Prop} (hok : bitOperandOk bn dr = true)
    (hexec : exec i s = finish (do requireBit s i bn dr; return s.setCur r)) (hpost : post (s.setCur r)) :
    Completes i s post := by
  have hchecked : requireBit s i bn dr = .ok () := requireOperand_ok.mpr hok
  exact .ok hexec (by rw [hchecked]; rfl) hpost

/-- `BSKP`: the skip on the Boolean `v` is the skip on what it decides. -/
theorem completes_bitSkip {c : Prop} [Decidable c] (hok : bitOperandOk bn dr = true)
    (hexec : exec i s = finish (do requireBit s i bn dr; return s.setCur (s.cur.skipIf v))) (hv : v = true ↔ c) :
    Completes i s fun t => SetsRegisters s t { s.cur with p := if c then s.cur.p + 2 else s.cur.p + 1 } :=
  completes_bitOperation hok hexec (setsRegisters_of_eq (by simp only [skipIf_eq, hv]))

theorem completes_bitLoadK (hok : bitOperandOk bn dr = true)
    (hexec : exec i s = finish (do requireBit s i bn dr; return s.setCur (loadK s v))) (hv : v = w) :
    Completes i s fun t => SetsRegisters s t { s.cur with p := s.cur.p + 1, sts := withK s.cur.sts w } :=
  completes_bitOperation hok hexec (setsRegisters_of_eq (by rw [loadK_eq, hv]))

theorem bitOperandOk_eq_false (h : bitOperandOk bn dr = false) : dr = .code0 ∧ 8 ≤ bn.toNat := by
  simp only [bitOperandOk, Bool.or_eq_false_iff, bne_eq_false_iff_eq] at h
  obtain ⟨hdr, hbn⟩ := h
  exact ⟨hdr, Nat.le_of_not_lt (of_decide_eq_false hbn)⟩

end Operations

/-- Settles O23: the bit is written, and K after it in `BSTC` and `BSTA`. -/
theorem bitStores : Obligations.BitStores := by
  unfold Obligations.BitStores
  intro bn dr s hok
  refine ⟨?zro, ?one, ?bcm, ?bac, ?bstc, ?bsta⟩
  case zro => exact completes_bitOperation hok rfl bitEffect_storeBit
  case one => exact completes_bitOperation hok rfl bitEffect_storeBit
  case bcm =>
    rw [← bit_eq_addressedBit]
    exact completes_bitOperation hok rfl bitEffect_storeBit
  case bac => exact completes_bitOperation hok rfl bitEffect_storeBit
  case bstc => exact completes_bitOperation hok rfl (bitEffect_setK bitEffect_storeBit)
  case bsta => exact completes_bitOperation hok rfl (bitEffect_setK bitEffect_storeBit)

/-- Settles O24: each skips on a Boolean of the addressed bit and K. -/
theorem bitSkips : Obligations.BitSkips := by
  unfold Obligations.BitSkips
  intro bn dr s hok
  rw [← bit_eq_addressedBit]
  exact ⟨completes_bitSkip hok rfl (Bool.not_eq_true' _).to_iff, completes_bitSkip hok rfl Iff.rfl,
    completes_bitSkip hok rfl bne_iff_ne, completes_bitSkip hok rfl beq_iff_eq⟩

/-- Settles O25: the six words, the value each loads into K, and the reserved operand of O14; the model names K before the
bit in its conjunctions and disjunctions. -/
theorem bitOperationsOnK : Obligations.BitOperationsOnK := by
  unfold Obligations.BitOperationsOnK
  intro bn dr s
  rw [← bit_eq_addressedBit]
  refine ⟨encodeBit_toNat 10 bn dr, encodeBit_toNat 11 bn dr, encodeBit_toNat 12 bn dr, encodeBit_toNat 13 bn dr,
    encodeBit_toNat 14 bn dr, encodeBit_toNat 15 bn dr, fun hok => ?loads, fun hreserved i hi => ?reserved⟩
  case loads =>
    exact ⟨completes_bitLoadK hok rfl rfl, completes_bitLoadK hok rfl rfl,
      completes_bitLoadK hok rfl (Bool.and_comm _ _), completes_bitLoadK hok rfl (Bool.and_comm _ _),
      completes_bitLoadK hok rfl (Bool.or_comm _ _), completes_bitLoadK hok rfl (Bool.or_comm _ _)⟩
  case reserved =>
    obtain ⟨rfl, hbn⟩ := bitOperandOk_eq_false hreserved
    have hmem : i ∈ (bitOperations bn .code0).drop 10 := hi
    exact bitOperation_reserved hbn (List.mem_of_mem_drop hmem)

end Sys2Proof.Proofs
end

section
/-! PROOFS. One byte loaded and stored (R190 to R192, R208, R209), and the instructions that put a computed memory in place of the
old one. -/

namespace Sys2Proof.Proofs

open Sys2Proof Sys2Proof.Machine

/-! ## A byte of a word (R190) -/

theorem zext8_eq_append (b : Byte) : zext8 b = 0#8 ++ b := by
  refine BitVec.eq_of_toNat_eq ?_
  rw [toNat_append_eq, zext8, BitVec.toNat_setWidth]
  have hlt := b.isLt
  simp
  omega

theorem zext8_selectByte (w index : Word) : zext8 (selectByte w (isRight index)) = byteOf w index := by
  rw [zext8_eq_append]
  rfl

theorem mergeByte_eq_withByte (w index : Word) (v : Byte) : mergeByte w (isRight index) v = withByte w index v := rfl

/-! ## Physical words (R62, R63) -/

theorem physAddr_eq_bankAddr (bank off : Word) : physAddr bank off = bankAddr bank off := by
  refine BitVec.eq_of_toNat_eq ?_
  have hbank : (rightByte bank).toNat = bank.toNat % 256 := by simp [rightByte]
  have hoff := off.isLt
  rw [physAddr, toNat_append_eq, hbank, bankAddr, BitVec.toNat_ofNat]
  omega

section Accesses

variable {s : State} {m : Memory} {addr v w : Word} {pa pr pw : PhysAddr} {f : Fault} {right : Bool} {b : Byte}

theorem physLoad_of_lt (h : pa.toNat < s.params.physWords) : physLoad s pa = .ok (s.mem.readWord pa) :=
  physLoad_ok.mpr ⟨h, rfl⟩

theorem physStore_of_lt (h : pa.toNat < s.params.physWords) : physStore s pa v = .ok (s.physWrite pa v) :=
  physStore_ok.mpr ⟨h, rfl⟩

theorem physLoad_of_le (h : s.params.physWords ≤ pa.toNat) :
    physLoad s pa = .error (.translationFault pa .nonexistent) := by
  rw [physLoad, installed_error.mpr ⟨h, rfl⟩, error_bind]

/-! ## A byte stored (R192) -/

theorem storeByteAt_ok (hread : locate s addr .read = .ok pr) (hwrite : locate s addr .write = .ok pw) :
    storeByteAt s m addr right b = .ok (m.writeWord pw (mergeByte (m.readWord pr) right b)) := by
  rw [storeByteAt, hread, hwrite]
  rfl

theorem storeByteAt_error_of_read (hread : locate s addr .read = .error f) :
    storeByteAt s m addr right b = .error f := by
  rw [storeByteAt, hread, error_bind]

theorem storeByteAt_error_of_write (hread : locate s addr .read = .ok pr) (hwrite : locate s addr .write = .error f) :
    storeByteAt s m addr right b = .error f := by
  rw [storeByteAt, hread, ok_bind, hwrite, error_bind]

end Accesses

/-! ## Instructions that replace the memory -/

/-- The meaning of `i` is to compute a memory, to put it in place of the old one, and to write the registers `r`. -/
def ReplacesMemory (i : Instr) (s : State) (x : Except Fault Memory) (r : Regs) : Prop :=
  exec i s = finish do
    let mem ← x
    return { s.setCur r with mem := mem }

section Replacing

variable {i : Instr} {s : State} {x : Except Fault Memory} {r : Regs} {mem : Memory} {post : State → Prop} {f : Fault}

theorem ReplacesMemory.completes (h : ReplacesMemory i s x r) (hx : x = .ok mem)
    (hpost : post { s.setCur r with mem := mem }) : Completes i s post :=
  .ok h (by rw [hx]; rfl) hpost

theorem ReplacesMemory.fault (h : ReplacesMemory i s x r) (hx : x = .error f) : exec i s = .fault f := by
  rw [h, hx]
  rfl

end Replacing

/-! ## LBYT and SBYT (R191, R192) -/

section Logical

variable {s : State} {w : Word} {f : Fault}

theorem exec_lbyt (s : State) : exec .lbyt s = finish do
    let w ← memRead s (s.cur.t + s.cur.x >>> 1)
    return s.setCur { s.cur with p := s.cur.p + 1, a := byteOf w s.cur.x } := by
  simp only [← zext8_selectByte]
  rfl

theorem replacesMemory_sbyt (s : State) : ReplacesMemory .sbyt s
    (storeByteAt s s.mem (s.cur.t + s.cur.x >>> 1) (isRight s.cur.x) (s.cur.a.extractLsb' 0 8))
    { s.cur with p := s.cur.p + 1 } := rfl

theorem completes_lbyt (hread : memRead s (s.cur.t + s.cur.x >>> 1) = .ok w) :
    Completes .lbyt s fun t => SetsRegisters s t { s.cur with p := s.cur.p + 1, a := byteOf w s.cur.x } :=
  .ok (exec_lbyt s) (by rw [hread]; rfl) (setsRegisters_setCur s _)

theorem lbyt_fault (hread : memRead s (s.cur.t + s.cur.x >>> 1) = .error f) : exec .lbyt s = .fault f := by
  rw [exec_lbyt, hread]
  rfl

theorem completes_sbyt {pw : PhysAddr} (hread : memRead s (s.cur.t + s.cur.x >>> 1) = .ok w)
    (hwrite : locate s (s.cur.t + s.cur.x >>> 1) .write = .ok pw) (hwf : s.mem.wf = true) :
    Completes .sbyt s fun t => SetsAndStores s t { s.cur with p := s.cur.p + 1 }
      [(pw, withByte w s.cur.x (s.cur.a.extractLsb' 0 8))] := by
  obtain ⟨pr, hlocate, rfl⟩ := memRead_ok.mp hread
  exact (replacesMemory_sbyt s).completes (storeByteAt_ok hlocate hwrite) (setsAndStores_of hwf rfl)

theorem sbyt_fault_of_read (hread : memRead s (s.cur.t + s.cur.x >>> 1) = .error f) : exec .sbyt s = .fault f :=
  (replacesMemory_sbyt s).fault (storeByteAt_error_of_read (memRead_error.mp hread))

theorem sbyt_fault_of_write (hread : memRead s (s.cur.t + s.cur.x >>> 1) = .ok w)
    (hwrite : locate s (s.cur.t + s.cur.x >>> 1) .write = .error f) : exec .sbyt s = .fault f := by
  obtain ⟨pr, hlocate, -⟩ := memRead_ok.mp hread
  exact (replacesMemory_sbyt s).fault (storeByteAt_error_of_write hlocate hwrite)

end Logical

/-! ## LBYTP and SBYTP (R208, R209) -/

section Physical

variable {s : State} {pa : PhysAddr}

theorem physByteAddr_eq (r : Regs) : physByteAddr r = bankAddr r.d (r.t + r.x >>> 1) := physAddr_eq_bankAddr _ _

theorem exec_lbytp (hpriv : privOk s = true) (hpa : physByteAddr s.cur = pa) : exec .lbytp s = finish do
    let w ← physLoad s pa
    return s.setCur { s.cur with p := s.cur.p + 1, a := byteOf w s.cur.x } := by
  have hexec : exec .lbytp s = execLbytp s := rfl
  rw [hexec, execLbytp, requirePrivilege_of_ok hpriv, hpa, ok_bind]
  simp only [zext8_selectByte]
  rfl

theorem exec_sbytp (hpriv : privOk s = true) (hpa : physByteAddr s.cur = pa) : exec .sbytp s = finish (do
    let w ← physLoad s pa
    physStore s.advance pa (withByte w s.cur.x (s.cur.a.extractLsb' 0 8))) := by
  have hexec : exec .sbytp s = execSbytp s := rfl
  rw [hexec, execSbytp, requirePrivilege_of_ok hpriv, hpa]
  rfl

theorem completes_lbytp (hpriv : privOk s = true) (hpa : physByteAddr s.cur = pa)
    (hin : pa.toNat < s.params.physWords) : Completes .lbytp s fun t =>
      SetsRegisters s t { s.cur with p := s.cur.p + 1, a := byteOf (s.mem.readWord pa) s.cur.x } :=
  .ok (exec_lbytp hpriv hpa) (by rw [physLoad_of_lt hin]; rfl) (setsRegisters_setCur s _)

theorem completes_sbytp (hpriv : privOk s = true) (hpa : physByteAddr s.cur = pa)
    (hin : pa.toNat < s.params.physWords) (hwf : s.mem.wf = true) : Completes .sbytp s fun t =>
      SetsAndStores s t { s.cur with p := s.cur.p + 1 }
        [(pa, withByte (s.mem.readWord pa) s.cur.x (s.cur.a.extractLsb' 0 8))] :=
  .ok (exec_sbytp hpriv hpa) (by rw [physLoad_of_lt hin]; exact physStore_of_lt (s := s.advance) hin)
    (setsAndStores_of hwf rfl)

theorem lbytp_fault (hpriv : privOk s = true) (hpa : physByteAddr s.cur = pa) (hout : s.params.physWords ≤ pa.toNat) :
    exec .lbytp s = .fault (.translationFault pa .nonexistent) := by
  rw [exec_lbytp hpriv hpa, physLoad_of_le hout]
  rfl

theorem sbytp_fault (hpriv : privOk s = true) (hpa : physByteAddr s.cur = pa) (hout : s.params.physWords ≤ pa.toNat) :
    exec .sbytp s = .fault (.translationFault pa .nonexistent) := by
  rw [exec_sbytp hpriv hpa, physLoad_of_le hout]
  rfl

end Physical

/-- Settles O26: the logical pair at the word `locate` gives, the physical pair at the word of bank D. -/
theorem byteLoadAndStore : Obligations.ByteLoadAndStore := by
  unfold Obligations.ByteLoadAndStore
  intro s addr pa
  have hpa : physByteAddr s.cur = pa := physByteAddr_eq s.cur
  refine ⟨fun w hread => ?lbyt, fun w pw hread hwrite hwf => ?sbyt, fun f hread => ?unreadable,
    fun w f hread hwrite => ?unwritable, fun hpriv hin => ?installed, fun hpriv hout => ?missing⟩
  case lbyt => exact completes_lbyt hread
  case sbyt => exact completes_sbyt hread hwrite hwf
  case unreadable => exact ⟨lbyt_fault hread, sbyt_fault_of_read hread⟩
  case unwritable => exact sbyt_fault_of_write hread hwrite
  case installed => exact ⟨completes_lbytp hpriv hpa hin, completes_sbytp hpriv hpa hin⟩
  case missing => exact ⟨lbytp_fault hpriv hpa hout, sbytp_fault hpriv hpa hout⟩

end Sys2Proof.Proofs
end

section
/-! PROOFS. The byte blocks (R193 to R196). A block is byte stores one after the other in the words that translation gives; with
memory management off these words are bank 0, and the stores are writes of single bytes at indices that wrap at 2^17. -/

namespace Sys2Proof.Proofs

open Sys2Proof Sys2Proof.Machine

/-! ## Descriptors (R193) -/

theorem fieldLen_lt (p : Params) (d2 : Word) : fieldLen p d2 < 2 ^ lenBits p := Nat.mod_lt _ (Nat.two_pow_pos _)

theorem byteLength_le (s : State) (d2 : Word) : byteLength s d2 ≤ 131072 :=
  calc byteLength s d2 ≤ 2 ^ lenBits s.params := (fieldLen_lt s.params d2).le
    _ ≤ 2 ^ 15 := Nat.pow_le_pow_right (by decide) (Nat.min_le_right _ _)
    _ ≤ 131072 := by decide

theorem firstByte_lt (d1 d2 : Word) : firstByte d1 d2 < 131072 := by
  have hd1 := d1.isLt
  have hd2 : d2.msb.toNat ≤ 1 := Bool.toNat_le _
  rw [firstByte]
  omega

/-- The length field exchanged: the bits from the field's width on stay. -/
theorem testBit_exchangeLength (p : Params) (d2 : Word) {len : Nat} (hlen : len < 2 ^ lenBits p) (j : Nat) :
    (d2.toNat - fieldLen p d2 + len).testBit j = if j < lenBits p then len.testBit j else d2.getLsbD j := by
  have hkept : d2.toNat - fieldLen p d2 = 2 ^ lenBits p * (d2.toNat / 2 ^ lenBits p) := by
    have hsplit := Nat.div_add_mod d2.toNat (2 ^ lenBits p)
    rw [fieldLen]
    omega
  rw [hkept, Nat.testBit_two_pow_mul_add _ hlen, Nat.testBit_div_two_pow]
  split
  · rfl
  · rw [Nat.sub_add_cancel (by omega)]
    rfl

theorem descriptorAt_advancedD2 (s : State) (d2 : Word) (index : Nat) {len : Nat} (hlen : len < 2 ^ lenBits s.params) :
    DescriptorAt s d2 (advancedD2 s.params d2 index len) index len := by
  intro j hj
  rw [advancedD2, setBitTo_bit _ _ _ _ hj]
  by_cases hlr : j = 15
  · simp [hlr, indexRight]
  · rw [if_neg hlr, if_neg hlr, BitVec.getLsbD_ofNat, testBit_exchangeLength _ _ hlen]
    simp [hj, lenBits]

/-! ## A run of byte stores -/

section Stores

variable {s t : State} {m : Memory} {n start : Nat} {pr pw : Nat → PhysAddr}
  {value : Nat → (PhysAddr → Word) → Byte} {write : Nat → Memory → Except Fault Memory} {f : Fault}

/-- `t` holds the memory of `s` after `n` byte stores from the linear index `start` on: the k-th reads the word `pr k`, writes the
word `pw k`, and stores the byte that `value k` makes of the words before it. -/
def StoresBytes (s t : State) (n start : Nat) (pr pw : Nat → PhysAddr) (value : Nat → (PhysAddr → Word) → Byte) : Prop :=
  ∃ words : Nat → PhysAddr → Word, words 0 = s.mem.readWord ∧
    (∀ k, k < n → StoresByte (words k) (words (k + 1)) (pr k) (pw k) (start + k) (value k (words k))) ∧
    HoldsWords s t (words n)

/-- A walk whose writes are byte stores that all find their words. -/
theorem walk_storeBytes_ok
    (hwrite : ∀ k, k < n → ∀ m, write k m = storeByteIndex s m (start + k) (value k m.readWord))
    (hreach : ∀ k, k < n → StoreReaches s (start + k) (pr k) (pw k)) (hwf : s.mem.wf = true) :
    ∃ mem, walk write n 0 s.mem = .ok mem ∧ ∀ t : State, t.mem = mem → StoresBytes s t n start pr pw value := by
  obtain ⟨mem, words, hwalk, hrewritten, hfirst, hlast, hsteps⟩ :=
    walk_ok (write := write) (w := pw) (v := fun k words => withByte (words (pr k)) (BitVec.ofNat 16 (start + k)) (value k words))
      n 0 s.mem hwf fun k _ hk m => by rw [hwrite k (by omega), storeByteIndex_ok (hreach k (by omega))]
  refine ⟨mem, hwalk, ?_⟩
  rintro t rfl
  refine ⟨words, hfirst, fun k hk pa => ?_, fun pa => congrFun hlast.symm pa, hrewritten.high⟩
  simpa only [Nat.zero_add] using hsteps k hk pa

theorem storeByteIndex_ok_of_reaches {k : Nat} (h : ∃ pr pw, StoreReaches s k pr pw) (v : Byte) :
    ∃ m', storeByteIndex s m k v = .ok m' := by
  obtain ⟨pr, pw, h⟩ := h
  exact ⟨_, storeByteIndex_ok h m v⟩

theorem walk_error_of_first {k : Nat} (hk : k < n) (hbefore : ∀ j, j < k → ∀ m, ∃ m', write j m = .ok m')
    (hfails : ∀ m, write k m = .error f) : walk write n 0 m = .error f :=
  walk_error k n 0 m hk (fun j _ hj => hbefore j (by omega)) (by simpa only [Nat.zero_add] using hfails)

end Stores

/-! ## Words as bytes -/

section Bytes

variable {s t : State} {words : PhysAddr → Word} {k : Nat}

theorem byteIn_readWord (m : Memory) (pa : PhysAddr) (j : Nat) :
    byteIn m.readWord pa j = m.readByte (2 * pa.toNat + j % 2) := by
  rw [← selectByte_index, selectByte, Memory.readWord]
  rcases Nat.mod_two_eq_zero_or_one j with hj | hj <;> simp [indexRight, hj]

/-- The bytes of the words of memory; beyond the physical address space, those of `s`. -/
def bytesOf (s : State) (words : PhysAddr → Word) (k : Nat) : Byte :=
  if k < 2 ^ 25 then byteIn words (BitVec.ofNat 24 (k / 2)) k else s.mem.readByte k

theorem bytesOf_readWord (hhigh : ∀ k : Nat, 2 ^ 25 ≤ k → t.mem.readByte k = s.mem.readByte k) :
    bytesOf s t.mem.readWord k = t.mem.readByte k := by
  rw [bytesOf]
  split
  · next hk =>
    have hword : (BitVec.ofNat 24 (k / 2)).toNat = k / 2 := Nat.mod_eq_of_lt (by omega)
    rw [byteIn_readWord, hword, Nat.div_add_mod]
  · next hk => exact (hhigh k (by omega)).symm

theorem bytesOf_of_holdsWords (h : HoldsWords s t words) : bytesOf s words k = t.mem.readByte k := by
  obtain ⟨hwords, hhigh⟩ := h
  rw [← funext hwords, bytesOf_readWord hhigh]

/-- The word of bank 0 that holds the byte of a linear index (R61, R193). -/
def bankZeroWord (j : Nat) : PhysAddr := bankZero (byteWord j)

theorem bankZeroWord_toNat (j : Nat) : (bankZeroWord j).toNat = j % 131072 / 2 := by
  rw [bankZeroWord, bankZero_toNat, byteWord, BitVec.toNat_ofNat]
  omega

theorem byteIn_congr_mod_two {j : Nat} (h : k % 2 = j % 2) (pa : PhysAddr) : byteIn words pa k = byteIn words pa j := by
  simp only [← selectByte_index, indexRight, h]

theorem byteIn_bankZeroWord (j : Nat) : byteIn words (bankZeroWord j) j = bytesOf s words (j % 131072) := by
  have hpa : BitVec.ofNat 24 (j % 131072 / 2) = bankZeroWord j :=
    BitVec.eq_of_toNat_eq (by rw [bankZeroWord_toNat, BitVec.toNat_ofNat]; omega)
  rw [bytesOf, if_pos (by omega), hpa]
  exact byteIn_congr_mod_two (by omega) _

theorem byteIn_readWord_bankZeroWord (j : Nat) :
    byteIn s.mem.readWord (bankZeroWord j) j = s.mem.readByte (j % 131072) := by
  rw [byteIn_bankZeroWord (s := s), bytesOf_readWord fun _ _ => rfl]

theorem selectByte_mergeByte (w : Word) (r r' : Bool) (v : Byte) :
    selectByte (mergeByte w r v) r' = if r' = r then v else selectByte w r' := by
  cases r <;> cases r' <;> simp [selectByte, mergeByte]

/-- A byte store in a word of bank 0 writes the byte of its index, modulo 2^17, and no other. -/
theorem bytesOf_of_storesByte {before after : PhysAddr → Word} {j : Nat} {v : Byte}
    (h : StoresByte before after (bankZeroWord j) (bankZeroWord j) j v) :
    bytesOf s after k = if k = j % 131072 then v else bytesOf s before k := by
  simp only [bytesOf]
  by_cases hk : k < 2 ^ 25
  · rw [if_pos hk, if_pos hk, ← selectByte_index, ← selectByte_index, h]
    have hpa : (BitVec.ofNat 24 (k / 2)).toNat = k / 2 := Nat.mod_eq_of_lt (by omega)
    by_cases hword : BitVec.ofNat 24 (k / 2) = bankZeroWord j
    · have hhalf : k / 2 = j % 131072 / 2 := by rw [← hpa, hword, bankZeroWord_toNat]
      have hindex : indexRight k = indexRight j ↔ k = j % 131072 := by
        simp only [indexRight, decide_eq_decide]
        omega
      rw [if_pos hword, hword, ← mergeByte_index, selectByte_mergeByte]
      simp only [hindex]
    · have hne : k ≠ j % 131072 := by
        rintro rfl
        exact hword (BitVec.eq_of_toNat_eq (by rw [hpa, bankZeroWord_toNat]))
      rw [if_neg hword, if_neg hne]
  · have hne : k ≠ j % 131072 := by omega
    rw [if_neg hk, if_neg hk, if_neg hne]

theorem locate_bankZeroWord (h : BankZeroReady s) (j : Nat) {kind : Access} :
    locate s (byteWord j) kind = .ok (bankZeroWord j) := by
  obtain ⟨hoff, hinstalled⟩ := h
  exact locate_bankZero hoff hinstalled _ _

theorem storeReaches_bankZero (h : BankZeroReady s) (j : Nat) :
    StoreReaches s j (bankZeroWord j) (bankZeroWord j) :=
  ⟨locate_bankZeroWord h j, locate_bankZeroWord h j⟩

/-- A run of byte stores in bank 0, byte by byte; `byteValue` is what `value` is as a function of bytes. -/
theorem StoresBytes.bytes {n start : Nat} {value : Nat → (PhysAddr → Word) → Byte} {byteValue : Nat → (Nat → Byte) → Byte}
    (h : StoresBytes s t n start (fun k => bankZeroWord (start + k)) (fun k => bankZeroWord (start + k)) value)
    (hvalue : ∀ k words, value k words = byteValue k (bytesOf s words)) :
    ∃ bytes : Nat → Nat → Byte, (∀ k, bytes 0 k = s.mem.readByte k) ∧
      (∀ i, i < n → ∀ k, bytes (i + 1) k = if k = (start + i) % 131072 then byteValue i (bytes i) else bytes i k) ∧
      ∀ k, t.mem.readByte k = bytes n k := by
  obtain ⟨words, hfirst, hsteps, hlast⟩ := h
  refine ⟨fun i => bytesOf s (words i), fun k => ?first, fun i hi k => ?step, fun k => ?last⟩
  all_goals beta_reduce
  case first => rw [hfirst, bytesOf_readWord fun _ _ => rfl]
  case step => rw [bytesOf_of_storesByte (hsteps i hi), hvalue]
  case last => rw [bytesOf_of_holdsWords hlast]

end Bytes

/-- Bytes written one after the other at indices that wrap at 2^17: no index twice, so each holds the value written to it. -/
theorem bytes_of_writes {bytes : Nat → Nat → Byte} {value : Nat → Byte} {start n : Nat} (hstart : start < 131072)
    (hn : n ≤ 131072)
    (hwrites : ∀ i, i < n → ∀ k, bytes (i + 1) k = if k = (start + i) % 131072 then value i else bytes i k) (k : Nat) :
    bytes n k =
      if k < 131072 ∧ (k + 131072 - start) % 131072 < n then value ((k + 131072 - start) % 131072) else bytes 0 k := by
  induction n with
  | zero => simp
  | succ n ih =>
    rw [hwrites n (by omega), ih (by omega) fun i hi => hwrites i (by omega)]
    have hhit : k = (start + n) % 131072 ↔ k < 131072 ∧ (k + 131072 - start) % 131072 = n := by omega
    by_cases hk : k = (start + n) % 131072
    · obtain ⟨hlow, hoffset⟩ := hhit.mp hk
      rw [if_pos hk, hoffset, if_pos ⟨hlow, by omega⟩]
    · have hless : k < 131072 ∧ (k + 131072 - start) % 131072 < n ↔
          k < 131072 ∧ (k + 131072 - start) % 131072 < n + 1 := by omega
      simp only [if_neg hk, hless]

section Bytes

variable {s t : State} {n start : Nat} {value : Nat → Byte}

/-- A run of byte stores in bank 0 whose bytes are fixed before it begins. -/
theorem StoresBytes.readByte (hstart : start < 131072) (hn : n ≤ 131072)
    (h : StoresBytes s t n start (fun k => bankZeroWord (start + k)) (fun k => bankZeroWord (start + k))
      fun k _ => value k) (k : Nat) :
    t.mem.readByte k =
      if k < 131072 ∧ (k + 131072 - start) % 131072 < n then value ((k + 131072 - start) % 131072)
      else s.mem.readByte k := by
  obtain ⟨bytes, hfirst, hsteps, hlast⟩ := h.bytes (byteValue := fun k _ => value k) fun _ _ => rfl
  rw [hlast, bytes_of_writes hstart hn hsteps, hfirst]

end Bytes

/-! ## What every block instruction leaves -/

/-- The current level's registers become `r` and memory may change; nothing else changes. -/
def SetsRegistersAndMemory (s t : State) (r : Regs) : Prop := t = { s.setCur r with mem := t.mem }

section Frames

variable {s t : State} {r : Regs} {i : Instr} {x : Except Fault Memory} {n start : Nat} {pr pw : Nat → PhysAddr}
  {value : Nat → (PhysAddr → Word) → Byte} {post post' : State → Prop}

theorem SetsRegistersAndMemory.cur (h : SetsRegistersAndMemory s t r) : t.cur = r := by
  rw [h]
  exact s.setCur_cur r

theorem SetsRegistersAndMemory.sameOtherLevels (h : SetsRegistersAndMemory s t r) : SameOtherLevels s t := by
  rw [h]
  exact fun n hn => s.setCur_lv_ne n r hn

theorem SetsRegistersAndMemory.sameControl (h : SetsRegistersAndMemory s t r) : SameControl s t := by
  rw [h]
  exact ⟨rfl, rfl, rfl, rfl, rfl, rfl, rfl, rfl, rfl, rfl, rfl, rfl, rfl, rfl, rfl⟩

theorem completes_imp (h : Completes i s post) (himp : ∀ t, post t → post' t) : Completes i s post' := by
  obtain ⟨t, hexec, hpost⟩ := h
  exact ⟨t, hexec, himp t hpost⟩

theorem ReplacesMemory.completes_stores (h : ReplacesMemory i s x r)
    (hx : ∃ mem, x = .ok mem ∧ ∀ t : State, t.mem = mem → StoresBytes s t n start pr pw value) :
    Completes i s fun t => SetsRegistersAndMemory s t r ∧ StoresBytes s t n start pr pw value := by
  obtain ⟨mem, hmem, hstores⟩ := hx
  exact h.completes hmem ⟨rfl, hstores _ rfl⟩

end Frames

/-! ## BFILL (R194) -/

section Fill

variable {s : State}

/-- The registers after `BFILL`: the descriptor at the byte after the field, with length 0. -/
def afterFill (s : State) : Regs :=
  let past := firstByte s.cur.x s.cur.t + byteLength s s.cur.t
  { s.cur with
    p := s.cur.p + 1, x := BitVec.ofNat 16 (past / 2)
    t := advancedD2 s.params s.cur.t past 0 }

theorem replacesMemory_bfill (s : State) : ReplacesMemory .bfill s
    (fillBytes s (s.cur.a.extractLsb' 0 8) (byteLength s s.cur.t) (firstByte s.cur.x s.cur.t)) (afterFill s) := rfl

theorem completes_bfill {pr pw : Nat → PhysAddr}
    (hreach : ∀ k, k < byteLength s s.cur.t → StoreReaches s (firstByte s.cur.x s.cur.t + k) (pr k) (pw k))
    (hwf : s.mem.wf = true) :
    Completes .bfill s fun t => SetsRegistersAndMemory s t (afterFill s) ∧
      StoresBytes s t (byteLength s s.cur.t) (firstByte s.cur.x s.cur.t) pr pw fun _ _ => s.cur.a.extractLsb' 0 8 :=
  (replacesMemory_bfill s).completes_stores (walk_storeBytes_ok (fun _ _ _ => rfl) hreach hwf)

theorem bfill_fault {k : Nat} {f : Fault} (hk : k < byteLength s s.cur.t)
    (hreach : ∀ j, j < k → ∃ pr pw, StoreReaches s (firstByte s.cur.x s.cur.t + j) pr pw)
    (hfails : StoreFails s (firstByte s.cur.x s.cur.t + k) f) : exec .bfill s = .fault f :=
  (replacesMemory_bfill s).fault <| walk_error_of_first hk
    (fun j hj _ => storeByteIndex_ok_of_reaches (hreach j hj) _) fun m => storeByteIndex_error hfails m _

end Fill

/-- Settles O27: the run of stores in general, and from it the bytes of the field in bank 0. -/
theorem byteFill : Obligations.ByteFill := by
  unfold Obligations.ByteFill
  intro s start n v frame
  have hframe : ∀ t, SetsRegistersAndMemory s t (afterFill s) → frame t := by
    intro t ht
    have hcur := ht.cur
    refine ⟨by rw [hcur]; rfl, ?_, ht.sameOtherLevels, ht.sameControl⟩
    rw [hcur]
    exact descriptorAt_advancedD2 s s.cur.t (start + n) (Nat.two_pow_pos _)
  refine ⟨fun hready hwf => ?bank, fun pr pw hreach hwf => ?words, fun k f hk hreach hfails => ?fault⟩
  case bank =>
    refine completes_imp (completes_bfill (fun k _ => storeReaches_bankZero hready (start + k)) hwf) ?_
    intro t ⟨ht, hstores⟩
    have hbytes : ∀ k, t.mem.readByte k =
        if k < 131072 ∧ (k + 131072 - start) % 131072 < n then v else s.mem.readByte k :=
      hstores.readByte (firstByte_lt _ _) (byteLength_le s _)
    exact ⟨hframe t ht, fun k hk => by simp only [hbytes, hk, true_and],
      fun k hk => by rw [hbytes, if_neg (by omega)]⟩
  case words =>
    exact completes_imp (completes_bfill hreach hwf) fun t ⟨ht, hstores⟩ => ⟨hframe t ht, hstores⟩
  case fault => exact bfill_fault hk hreach hfails

end Sys2Proof.Proofs
end

section
/-! PROOFS. The byte moves (R195, R196): `MOVB` reads the whole source before it stores, `MOVBF` reads each byte just before its
store. Both are runs of byte stores and differ in the words that the stored bytes come from. -/

namespace Sys2Proof.Proofs

open Sys2Proof Sys2Proof.Machine

section Moves

variable {s t : State} {ps pr pw : Nat → PhysAddr} {k : Nat} {f : Fault}

/-- The linear index of the first source byte (R195). -/
def moveSource (s : State) : Nat := firstByte s.cur.a s.cur.d

/-- The linear index of the first destination byte (R195). -/
def moveDest (s : State) : Nat := firstByte s.cur.x s.cur.t

theorem moveDest_lt (s : State) : moveDest s < 131072 := firstByte_lt _ _

theorem moveCount_lt (s : State) : moveCount s < 2 ^ lenBits s.params :=
  (Nat.min_le_left _ _).trans_lt (fieldLen_lt s.params s.cur.d)

theorem moveCount_le (s : State) : moveCount s ≤ 131072 := (Nat.min_le_left _ _).trans (byteLength_le s s.cur.d)

/-! ## MOVB (R195) -/

theorem replacesMemory_movb (s : State) : ReplacesMemory .movb s
    (readBytes s s.mem (moveCount s) (moveSource s) >>= fun bytes => writeBytes s bytes (moveDest s))
    (afterByteMove s) := by
  have hexec : exec .movb s = execMovb s := rfl
  rw [ReplacesMemory, hexec, execMovb, bind_assoc]
  rfl

/-- The bytes stored by `MOVB` are those of the words before the instruction. -/
theorem completes_movb (hreads : ∀ k, k < moveCount s → locate s (byteWord (moveSource s + k)) .read = .ok (ps k))
    (hreach : ∀ k, k < moveCount s → StoreReaches s (moveDest s + k) (pr k) (pw k)) (hwf : s.mem.wf = true) :
    Completes .movb s fun t => SetsRegistersAndMemory s t (afterByteMove s) ∧
      StoresBytes s t (moveCount s) (moveDest s) pr pw fun k _ => byteIn s.mem.readWord (ps k) (moveSource s + k) := by
  obtain ⟨bytes, hbytes, hlength, hvalues⟩ := readBytes_ok (m := s.mem) (moveCount s) (moveSource s) ps hreads
  refine (replacesMemory_movb s).completes_stores ?_
  rw [hbytes, ok_bind, writeBytes, hlength]
  exact walk_storeBytes_ok (fun k hk _ => by rw [hvalues k hk]) hreach hwf

/-- With memory management off `MOVB` moves the bytes of the source as they were, whatever the overlap. -/
theorem completes_movb_bankZero (hready : BankZeroReady s) (hwf : s.mem.wf = true) :
    Completes .movb s fun t => SetsRegistersAndMemory s t (afterByteMove s) ∧ ∀ k, t.mem.readByte k =
      if k < 131072 ∧ (k + 131072 - moveDest s) % 131072 < moveCount s then
        s.mem.readByte ((moveSource s + (k + 131072 - moveDest s)) % 131072)
      else s.mem.readByte k := by
  refine completes_imp (completes_movb (fun k _ => locate_bankZeroWord hready (moveSource s + k))
    (fun k _ => storeReaches_bankZero hready (moveDest s + k)) hwf) fun t ⟨ht, hstores⟩ => ⟨ht, fun k => ?_⟩
  rw [hstores.readByte (moveDest_lt s) (moveCount_le s), byteIn_readWord_bankZeroWord, Nat.add_mod_mod]

theorem movb_fault_of_read (hk : k < moveCount s)
    (hbefore : ∀ j, j < k → ∃ ps, locate s (byteWord (moveSource s + j)) .read = .ok ps)
    (hread : locate s (byteWord (moveSource s + k)) .read = .error f) : exec .movb s = .fault f :=
  (replacesMemory_movb s).fault (by rw [readBytes_error k _ _ hk hbefore hread, error_bind])

theorem movb_fault_of_store (hk : k < moveCount s)
    (hreads : ∀ j, j < moveCount s → ∃ ps, locate s (byteWord (moveSource s + j)) .read = .ok ps)
    (hreach : ∀ j, j < k → ∃ pr pw, StoreReaches s (moveDest s + j) pr pw)
    (hfails : StoreFails s (moveDest s + k) f) : exec .movb s = .fault f := by
  choose! ps hps using hreads
  obtain ⟨bytes, hbytes, hlength, -⟩ := readBytes_ok (m := s.mem) (moveCount s) (moveSource s) ps hps
  refine (replacesMemory_movb s).fault ?_
  rw [hbytes, ok_bind, writeBytes, hlength]
  exact walk_error_of_first hk (fun j hj _ => storeByteIndex_ok_of_reaches (hreach j hj) _)
    fun m => storeByteIndex_error hfails m _

/-! ## MOVBF (R196) -/

theorem replacesMemory_movbf (s : State) : ReplacesMemory .movbf s
    (copyForward s (moveCount s) (moveSource s) (moveDest s)) (afterByteMove s) := rfl

/-- The byte stored by `MOVBF` is that of the words just before its store. -/
theorem completes_movbf (hreads : ∀ k, k < moveCount s → locate s (byteWord (moveSource s + k)) .read = .ok (ps k))
    (hreach : ∀ k, k < moveCount s → StoreReaches s (moveDest s + k) (pr k) (pw k)) (hwf : s.mem.wf = true) :
    Completes .movbf s fun t => SetsRegistersAndMemory s t (afterByteMove s) ∧
      StoresBytes s t (moveCount s) (moveDest s) pr pw fun k words => byteIn words (ps k) (moveSource s + k) :=
  (replacesMemory_movbf s).completes_stores <|
    walk_storeBytes_ok (fun k hk m => by rw [loadByteAt_ok (hreads k hk), ok_bind]) hreach hwf

/-- With memory management off each pass of `MOVBF` copies one byte of what the passes before it left. -/
theorem completes_movbf_bankZero (hready : BankZeroReady s) (hwf : s.mem.wf = true) :
    Completes .movbf s fun t => SetsRegistersAndMemory s t (afterByteMove s) ∧ ∃ bytes : Nat → Nat → Byte,
      (∀ k, bytes 0 k = s.mem.readByte k) ∧
      (∀ i, i < moveCount s → ∀ k, bytes (i + 1) k =
        if k = (moveDest s + i) % 131072 then bytes i ((moveSource s + i) % 131072) else bytes i k) ∧
      ∀ k, t.mem.readByte k = bytes (moveCount s) k :=
  completes_imp (completes_movbf (fun k _ => locate_bankZeroWord hready (moveSource s + k))
    (fun k _ => storeReaches_bankZero hready (moveDest s + k)) hwf) fun _ ⟨ht, hstores⟩ =>
      ⟨ht, hstores.bytes (byteValue := fun i bytes => bytes ((moveSource s + i) % 131072))
        fun i _ => byteIn_bankZeroWord (moveSource s + i)⟩

theorem movbf_fault (hk : k < moveCount s)
    (hbefore : ∀ j, j < k → (∃ ps, locate s (byteWord (moveSource s + j)) .read = .ok ps) ∧
      ∃ pr pw, StoreReaches s (moveDest s + j) pr pw)
    (hfails : locate s (byteWord (moveSource s + k)) .read = .error f ∨
      (∃ ps, locate s (byteWord (moveSource s + k)) .read = .ok ps) ∧ StoreFails s (moveDest s + k) f) :
    exec .movbf s = .fault f := by
  refine (replacesMemory_movbf s).fault (walk_error_of_first hk (fun j hj m => ?before) fun m => ?fails)
  case before =>
    obtain ⟨⟨ps, hread⟩, hreach⟩ := hbefore j hj
    rw [loadByteAt_ok hread, ok_bind]
    exact storeByteIndex_ok_of_reaches hreach _
  case fails =>
    rcases hfails with hread | ⟨⟨ps, hread⟩, hstore⟩
    · rw [loadByteAt_error hread, error_bind]
    · rw [loadByteAt_ok hread, ok_bind, storeByteIndex_error hstore]

end Moves

/-- Settles O28: the two runs of stores in general, and from them the bytes of bank 0: `MOVB` in closed form, `MOVBF` step by
step. -/
theorem byteMoves : Obligations.ByteMoves := by
  unfold Obligations.ByteMoves
  intro s src dst n frame readable unreadable writable
  have hframe : ∀ t, SetsRegistersAndMemory s t (afterByteMove s) → frame t := by
    intro t ht
    have hcur := ht.cur
    refine ⟨by rw [hcur]; rfl, ?_, ?_, ht.sameOtherLevels, ht.sameControl⟩
    · rw [hcur]
      exact descriptorAt_advancedD2 s s.cur.d (src + n) (Nat.two_pow_pos _)
    · rw [hcur]
      exact descriptorAt_advancedD2 s s.cur.t (dst + n) (moveCount_lt s)
  refine ⟨fun hready hwf => ?bank, fun ps pr pw h hwf => ?words, fun k f hk => ?fault⟩
  case bank =>
    refine ⟨completes_imp (completes_movb_bankZero hready hwf) fun t ⟨ht, hbytes⟩ => ⟨hframe t ht, ?beyond, ?field⟩,
      completes_imp (completes_movbf_bankZero hready hwf) fun t ⟨ht, hbytes⟩ => ⟨hframe t ht, hbytes⟩⟩
    case beyond =>
      intro k hk
      rw [hbytes, if_neg (by omega)]
    case field =>
      intro k hk
      simp only [hbytes, hk, true_and]
      rfl
  case words =>
    obtain ⟨hreads, hreach⟩ := forall₂_and.mp h
    exact ⟨completes_imp (completes_movb hreads hreach hwf) fun t ⟨ht, words, hfirst, hsteps, hlast⟩ =>
        ⟨hframe t ht, words, hfirst, fun k hk => by rw [hfirst]; exact hsteps k hk, hlast⟩,
      completes_imp (completes_movbf hreads hreach hwf) fun t ⟨ht, hstores⟩ => ⟨hframe t ht, hstores⟩⟩
  case fault => exact ⟨movb_fault_of_read hk, movb_fault_of_store hk, movbf_fault hk⟩

end Sys2Proof.Proofs
end

section
/-! PROOFS. What the SINTRAN control instructions share (R200): each begins with the privilege check. After it some write registers
only, some access one word of physical memory. -/

namespace Sys2Proof.Proofs

open Sys2Proof Sys2Proof.Machine

/-! ## The privilege check (R200, R461) -/

/-- The meaning of `i` is the privilege check and then `x`. -/
def ChecksPrivilege (i : Instr) (s : State) (x : Except Fault State) : Prop :=
  exec i s = finish do
    requirePrivilege s i
    x

section Checked

variable {i : Instr} {s t : State} {x : Except Fault State} {post : State → Prop} {f : Fault}

theorem ChecksPrivilege.exec_eq (h : ChecksPrivilege i s x) (hpriv : privOk s = true) : exec i s = finish x := by
  rw [h, requirePrivilege_of_ok hpriv, ok_bind]

theorem ChecksPrivilege.completes (h : ChecksPrivilege i s x) (hpriv : privOk s = true) (hx : x = .ok t) (hpost : post t) :
    Completes i s post := .ok (h.exec_eq hpriv) hx hpost

theorem ChecksPrivilege.fault (h : ChecksPrivilege i s x) (hpriv : privOk s = true) (hx : x = .error f) :
    exec i s = .fault f := by
  rw [h.exec_eq hpriv, hx, finish_error]

theorem ChecksPrivilege.violation (h : ChecksPrivilege i s x) (hpriv : privOk s = false) :
    exec i s = .fault (.privilegeViolation (encode s.params.opcodes i)) := by
  rw [h, requirePrivilege_error hpriv, error_bind, finish_error]

end Checked

/-! ## One word of physical memory (R62, R63) -/

/-- After the check `i` reads the physical word at `pa` and writes the registers that `g` makes of it. -/
def LoadsPhysical (i : Instr) (s : State) (pa : PhysAddr) (g : Word → Regs) : Prop :=
  ChecksPrivilege i s do
    let w ← physLoad s pa
    return s.setCur (g w)

/-- After the check `i` writes `v` to the physical word at `pa`. -/
def StoresPhysical (i : Instr) (s : State) (pa : PhysAddr) (v : Word) : Prop :=
  ChecksPrivilege i s (physStore s.advance pa v)

/-- After the check `i` reads the physical word at `pa` and writes back what `g` makes of it. -/
def UpdatesPhysical (i : Instr) (s : State) (pa : PhysAddr) (g : Word → Word) : Prop :=
  ChecksPrivilege i s do
    let w ← physLoad s pa
    physStore s.advance pa (g w)

section Accesses

variable {i : Instr} {s : State} {pa : PhysAddr} {v : Word}

theorem physStore_of_le (h : s.params.physWords ≤ pa.toNat) :
    physStore s pa v = .error (.translationFault pa .nonexistent) := by
  rw [physStore, installed_error.mpr ⟨h, rfl⟩, error_bind]

theorem LoadsPhysical.completes {g : Word → Regs} (h : LoadsPhysical i s pa g) (hpriv : privOk s = true)
    (hin : pa.toNat < s.params.physWords) : Completes i s fun t => SetsRegisters s t (g (s.mem.readWord pa)) :=
  ChecksPrivilege.completes h hpriv (by rw [physLoad_of_lt hin]; rfl) (setsRegisters_setCur s _)

theorem LoadsPhysical.fault {g : Word → Regs} (h : LoadsPhysical i s pa g) (hpriv : privOk s = true)
    (hout : s.params.physWords ≤ pa.toNat) : exec i s = .fault (.translationFault pa .nonexistent) :=
  ChecksPrivilege.fault h hpriv (by rw [physLoad_of_le hout]; rfl)

/-- One word written, P advanced. -/
theorem setsAndStores_physWrite (hwf : s.mem.wf = true) :
    SetsAndStores s (s.physWrite pa v).advance { s.cur with p := s.cur.p + 1 } [(pa, v)] := setsAndStores_of hwf rfl

theorem StoresPhysical.completes (h : StoresPhysical i s pa v) (hpriv : privOk s = true)
    (hin : pa.toNat < s.params.physWords) (hwf : s.mem.wf = true) :
    Completes i s fun t => SetsAndStores s t { s.cur with p := s.cur.p + 1 } [(pa, v)] :=
  ChecksPrivilege.completes h hpriv (physStore_of_lt (s := s.advance) hin) (setsAndStores_physWrite hwf)

theorem StoresPhysical.fault (h : StoresPhysical i s pa v) (hpriv : privOk s = true)
    (hout : s.params.physWords ≤ pa.toNat) : exec i s = .fault (.translationFault pa .nonexistent) :=
  ChecksPrivilege.fault h hpriv (physStore_of_le (s := s.advance) hout)

theorem UpdatesPhysical.completes {g : Word → Word} (h : UpdatesPhysical i s pa g) (hpriv : privOk s = true)
    (hin : pa.toNat < s.params.physWords) (hwf : s.mem.wf = true) :
    Completes i s fun t => SetsAndStores s t { s.cur with p := s.cur.p + 1 } [(pa, g (s.mem.readWord pa))] :=
  ChecksPrivilege.completes h hpriv (by rw [physLoad_of_lt hin]; exact physStore_of_lt (s := s.advance) hin)
    (setsAndStores_physWrite hwf)

theorem UpdatesPhysical.fault {g : Word → Word} (h : UpdatesPhysical i s pa g) (hpriv : privOk s = true)
    (hout : s.params.physWords ≤ pa.toNat) : exec i s = .fault (.translationFault pa .nonexistent) :=
  ChecksPrivilege.fault h hpriv (by rw [physLoad_of_le hout]; rfl)

end Accesses

end Sys2Proof.Proofs
end

section
/-! PROOFS. The global pointers (R201, R202), the accesses to the two banks they name (R225 to R234), and the bit arrays (R203 to
R207). -/

namespace Sys2Proof.Proofs

open Sys2Proof Sys2Proof.Machine

/-! ## WGLOB and RGLOB (R201, R202) -/

theorem checksPrivilege_wglob (s : State) : ChecksPrivilege .wglob s
    (.ok (State.advance { s with stbnk := s.cur.t, stsrt := s.cur.a, cmbnk := s.cur.d })) := rfl

theorem checksPrivilege_rglob (s : State) : ChecksPrivilege .rglob s
    (.ok (s.setCur { s.cur with p := s.cur.p + 1, t := s.stbnk, a := s.stsrt, d := s.cmbnk })) := rfl

/-- Settles O29: the two default words, and for each instruction either answer of the privilege check. -/
theorem globalPointers : Obligations.GlobalPointers := by
  unfold Obligations.GlobalPointers
  refine ⟨rfl, rfl, fun s => ⟨fun hpriv => ⟨?wglob, ?rglob⟩, ?check⟩⟩
  case wglob => exact (checksPrivilege_wglob s).completes hpriv rfl (setsRegisters_advance _)
  case rglob => exact (checksPrivilege_rglob s).completes hpriv rfl (setsRegisters_setCur s _)
  case check =>
    cases hpriv : privOk s with
    | true => exact .inl rfl
    | false => exact .inr ⟨(checksPrivilege_wglob s).violation hpriv, (checksPrivilege_rglob s).violation hpriv⟩

/-! ## The segment-table bank and the core-map bank (R225 to R234, decision D43) -/

theorem segmentEntry_eq (s : State) (delta : BitVec 3) :
    segmentEntry s delta = bankAddr s.stbnk (s.cur.b + delta.setWidth 16) := physAddr_eq_bankAddr _ _

theorem coreMapEntry_eq (s : State) (delta : BitVec 3) :
    coreMapEntry s delta = bankAddr s.cmbnk (s.cur.b + delta.setWidth 16) := physAddr_eq_bankAddr _ _

/-- Two loads and two stores at one physical address: A and X loaded, A and zero stored. -/
structure AccessesEntry (loadA loadX storeA storeZero : Instr) (s : State) (pa : PhysAddr) : Prop where
  loadA     : LoadsPhysical loadA s pa fun w => { s.cur with p := s.cur.p + 1, a := w }
  loadX     : LoadsPhysical loadX s pa fun w => { s.cur with p := s.cur.p + 1, x := w }
  storeA    : StoresPhysical storeA s pa s.cur.a
  storeZero : StoresPhysical storeZero s pa 0

theorem accessesEntry_segment (s : State) (delta : BitVec 3) :
    AccessesEntry (.lasb delta) (.lxsb delta) (.sasb delta) (.szsb delta) s (segmentEntry s delta) := ⟨rfl, rfl, rfl, rfl⟩

theorem accessesEntry_coreMap (s : State) (delta : BitVec 3) :
    AccessesEntry (.lacb delta) (.lxcb delta) (.sacb delta) (.szcb delta) s (coreMapEntry s delta) := ⟨rfl, rfl, rfl, rfl⟩

section Entries

variable {loadA loadX storeA storeZero i : Instr} {s : State} {pa : PhysAddr}

theorem AccessesEntry.completes (h : AccessesEntry loadA loadX storeA storeZero s pa) (hpriv : privOk s = true)
    (hin : pa.toNat < s.params.physWords) :
    Completes loadA s (fun t => SetsRegisters s t { s.cur with p := s.cur.p + 1, a := s.mem.readWord pa }) ∧
      Completes loadX s (fun t => SetsRegisters s t { s.cur with p := s.cur.p + 1, x := s.mem.readWord pa }) ∧
      (s.mem.wf = true →
        Completes storeA s (fun t => SetsAndStores s t { s.cur with p := s.cur.p + 1 } [(pa, s.cur.a)]) ∧
        Completes storeZero s (fun t => SetsAndStores s t { s.cur with p := s.cur.p + 1 } [(pa, 0)])) :=
  ⟨h.loadA.completes hpriv hin, h.loadX.completes hpriv hin,
    fun hwf => ⟨h.storeA.completes hpriv hin hwf, h.storeZero.completes hpriv hin hwf⟩⟩

theorem AccessesEntry.fault (h : AccessesEntry loadA loadX storeA storeZero s pa) (hpriv : privOk s = true)
    (hout : s.params.physWords ≤ pa.toNat) (hi : i ∈ [loadA, loadX, storeA, storeZero]) :
    exec i s = .fault (.translationFault pa .nonexistent) := by
  simp only [List.mem_cons, List.not_mem_nil, or_false] at hi
  obtain rfl | rfl | rfl | rfl := hi
  · exact h.loadA.fault hpriv hout
  · exact h.loadX.fault hpriv hout
  · exact h.storeA.fault hpriv hout
  · exact h.storeZero.fault hpriv hout

end Entries

/-- Settles O30: four accesses to an entry of the segment table, and the same four to one of the core map. -/
theorem tableBankAccesses : Obligations.TableBankAccesses := by
  unfold Obligations.TableBankAccesses
  intro delta s hpriv seg core
  have hseg := accessesEntry_segment s delta
  have hcore := accessesEntry_coreMap s delta
  rw [segmentEntry_eq] at hseg
  rw [coreMapEntry_eq] at hcore
  exact ⟨hseg.completes hpriv, hcore.completes hpriv, fun _ => hseg.fault hpriv, fun _ => hcore.fault hpriv⟩

/-! ## Bit arrays (R203 to R207, decision D47) -/

theorem bitArrayPos_eq (s : State) : bitArrayPos s.params s.cur.a = arrayBitPos s := by
  simp [bitArrayPos, arrayBitPos]

theorem physBitAddr_eq (r : Regs) : physBitAddr r = bankAddr r.t (r.x + r.a >>> 4) := physAddr_eq_bankAddr _ _

theorem loadArrayBit_eq (s : State) (w : Word) :
    loadArrayBit s w =
      s.setCur { s.cur with p := s.cur.p + 1, sts := withK s.cur.sts (w.getLsbD (arrayBitPos s)) } := by
  rw [← setBitTo_two_eq_withK, ← bitArrayPos_eq]
  rfl

theorem storeArrayBit_eq (s : State) (w : Word) :
    storeArrayBit s w = withBit w (arrayBitPos s) (s.cur.sts.getLsbD 2) := by
  rw [← bitArrayPos_eq]
  rfl

theorem checksPrivilege_lbit (s : State) : ChecksPrivilege .lbit s do
    let w ← memRead s (s.cur.x + s.cur.a >>> 4)
    return s.setCur { s.cur with p := s.cur.p + 1, sts := withK s.cur.sts (w.getLsbD (arrayBitPos s)) } := by
  simp only [← loadArrayBit_eq]
  rfl

theorem checksPrivilege_sbit (s : State) : ChecksPrivilege .sbit s (do
    let w ← memRead s (s.cur.x + s.cur.a >>> 4)
    let pa ← locate s (s.cur.x + s.cur.a >>> 4) .write
    return (s.physWrite pa (withBit w (arrayBitPos s) (s.cur.sts.getLsbD 2))).advance) := by
  simp only [← storeArrayBit_eq]
  rfl

theorem loadsPhysical_lbitp (s : State) : LoadsPhysical .lbitp s (bankAddr s.cur.t (s.cur.x + s.cur.a >>> 4)) fun w =>
    { s.cur with p := s.cur.p + 1, sts := withK s.cur.sts (w.getLsbD (arrayBitPos s)) } := by
  rw [LoadsPhysical, ← physBitAddr_eq]
  simp only [← loadArrayBit_eq]
  rfl

theorem updatesPhysical_sbitp (s : State) : UpdatesPhysical .sbitp s (bankAddr s.cur.t (s.cur.x + s.cur.a >>> 4)) fun w =>
    withBit w (arrayBitPos s) (s.cur.sts.getLsbD 2) := by
  rw [UpdatesPhysical, ← physBitAddr_eq]
  simp only [← storeArrayBit_eq]
  rfl

/-- Settles O31: the logical pair at the word `locate` gives, the physical pair at the word of bank T. -/
theorem bitArrays : Obligations.BitArrays := by
  unfold Obligations.BitArrays
  intro s hpriv addr pa k
  refine ⟨fun w hread => ⟨?lbit, fun pw hwrite hwf => ?sbit, fun f hwrite => ?unwritable⟩, fun f hread => ?unreadable,
    fun hin => ?installed, fun hout => ?missing⟩
  case lbit => exact (checksPrivilege_lbit s).completes hpriv (by rw [hread]; rfl) (setsRegisters_setCur s _)
  case sbit =>
    exact (checksPrivilege_sbit s).completes hpriv (by rw [hread, ok_bind, hwrite]; rfl) (setsAndStores_physWrite hwf)
  case unwritable => exact (checksPrivilege_sbit s).fault hpriv (by rw [hread, ok_bind, hwrite]; rfl)
  case unreadable =>
    exact ⟨(checksPrivilege_lbit s).fault hpriv (by rw [hread]; rfl),
      (checksPrivilege_sbit s).fault hpriv (by rw [hread]; rfl)⟩
  case installed =>
    exact ⟨(loadsPhysical_lbitp s).completes hpriv hin, (updatesPhysical_sbitp s).completes hpriv hin⟩
  case missing => exact ⟨(loadsPhysical_lbitp s).fault hpriv hout, (updatesPhysical_sbitp s).fault hpriv hout⟩

end Sys2Proof.Proofs
end

section
/-! PROOFS. The page-table loops `SETPT` and `CLEPT` (R211, R212): one pass with all memory in reach, and the loop along a chain of
passes. -/

namespace Sys2Proof.Proofs

open Sys2Proof Sys2Proof.Machine

/-! ## Accesses with all memory in reach (R463) -/

section AllInReach

variable {s : State} {pa : PhysAddr} {addr v : Word} {kind : Access}

theorem lt_physWords_of_allReady (h : AllReady s) (pa : PhysAddr) : pa.toNat < s.params.physWords := by
  obtain ⟨-, hwords⟩ := h
  have hlt := pa.isLt
  omega

theorem physLoad_of_allReady (h : AllReady s) : physLoad s pa = .ok (s.mem.readWord pa) :=
  physLoad_of_lt (lt_physWords_of_allReady h pa)

theorem physStore_of_allReady (h : AllReady s) : physStore s pa v = .ok (s.physWrite pa v) :=
  physStore_of_lt (lt_physWords_of_allReady h pa)

theorem locate_of_allReady (h : AllReady s) : locate s addr kind = .ok (BitVec.ofNat 24 addr.toNat) := by
  obtain ⟨hoff, hwords⟩ := h
  rw [locate_bankZero hoff (by omega), bankZero_eq_ofNat]

theorem memRead_of_allReady (h : AllReady s) : memRead s addr = .ok (wordAt s addr) :=
  memRead_ok.mpr ⟨_, locate_of_allReady h, rfl⟩

end AllInReach

/-! ## One pass (R211, R212, R319) -/

theorem txAddr_eq (r : Regs) (off : Word) : txAddr r off = bankAddr r.t off := physAddr_eq_bankAddr _ _

theorem setBitTo_eq_withBit (w : Word) (pos : Nat) (v : Bool) : setBitTo w pos v = withBit w pos v := rfl

/-- The state within a pass: the registers `r` and the memory `m` in place of those of `s`. -/
def withinPass (s : State) (r : Regs) (m : Memory) : State := { s.setCur r with mem := m }

section WithinPass

variable {s : State} {r q : Regs} {m m' : Memory} {pa : PhysAddr} {v : Word}

theorem setCur_eq_withinPass (s : State) (r : Regs) : s.setCur r = withinPass s r s.mem := rfl

@[simp] theorem withinPass_cur : (withinPass s r m).cur = r := s.setCur_cur r

@[simp] theorem withinPass_mem : (withinPass s r m).mem = m := rfl

@[simp] theorem withinPass_withinPass : withinPass (withinPass s r m) q m' = withinPass s q m' :=
  congrArg (fun t : State => { t with mem := m' }) (s.setCur_setCur r q)

@[simp] theorem withinPass_physWrite : (withinPass s r m).physWrite pa v = withinPass s r (m.writeWord pa v) := rfl

theorem allReady_withinPass (h : AllReady s) : AllReady (withinPass s r m) := h

end WithinPass

/-- After a pass that leaves the registers `r` and the stores `stores`: X is the link of the element, read last. -/
def afterPass (s : State) (r : Regs) (stores : List (PhysAddr × Word)) : State :=
  withinPass s { r with x := (storedMem s.mem stores).readWord (bankAddr s.cur.t s.cur.x) } (storedMem s.mem stores)

theorem setsAndStores_afterPass {s : State} {r : Regs} {stores : List (PhysAddr × Word)} (hwf : s.mem.wf = true) :
    SetsAndStores s (afterPass s r stores)
      { r with x := (afterPass s r stores).mem.readWord (bankAddr s.cur.t s.cur.x) } stores := setsAndStores_of hwf rfl

section Passes

variable {s : State} {w a d : Word}

theorem setptOnce_of_allReady (h : AllReady s) (hw : s.mem.readWord (bankAddr s.cur.t (s.cur.x + 1)) = w)
    (ha : s.mem.readWord (bankAddr s.cur.t (s.cur.x + 2)) = a)
    (hd : s.mem.readWord (bankAddr s.cur.t (s.cur.x + 3)) = d) :
    setptOnce s = .ok (afterPass s { s.cur with a := withBit a 11 false, d := d, b := pageTableSlot w }
      [(BitVec.ofNat 24 (pageTableSlot w).toNat, withBit a 11 false),
        (BitVec.ofNat 24 (pageTableSlot w + 1).toNat, d)]) := by
  simp only [setptOnce, txAddr_eq, setBitTo_eq_withBit, setCur_eq_withinPass, withinPass_physWrite, withinPass_withinPass,
    withinPass_cur, withinPass_mem, allReady_withinPass, physLoad_of_allReady, locate_of_allReady, h, hw, ha, hd, ok_bind]
  rfl

theorem cleptOnce_of_allReady (h : AllReady s) (hw : s.mem.readWord (bankAddr s.cur.t (s.cur.x + 1)) = w)
    (ha : wordAt s (pageTableSlot w) = a) :
    cleptOnce s = .ok (afterPass s { s.cur with a := a, b := pageTableSlot w }
      (if a = 0 then []
       else [(bankAddr s.cur.t (s.cur.x + 2), a), (BitVec.ofNat 24 (pageTableSlot w).toNat, 0)])) := by
  have hread : memRead (withinPass s { s.cur with b := pageTableSlot w } s.mem) (pageTableSlot w) = .ok a :=
    (memRead_of_allReady (allReady_withinPass h)).trans (congrArg Except.ok ha)
  simp only [cleptOnce, txAddr_eq, setCur_eq_withinPass, withinPass_withinPass, withinPass_cur, withinPass_mem,
    physLoad_of_allReady, h, hw, hread, ok_bind]
  by_cases hzero : a = 0
  · simp only [hzero, if_true, pure_ok, ok_bind, withinPass_withinPass, withinPass_cur, withinPass_mem,
      allReady_withinPass, physLoad_of_allReady, h]
    rfl
  · simp only [hzero, if_false, pure_ok, ok_bind, withinPass_physWrite, withinPass_withinPass, withinPass_cur,
      withinPass_mem, allReady_withinPass, physLoad_of_allReady, physStore_of_allReady, locate_of_allReady, h]
    rfl

end Passes

/-! ## The loop (R211, log 21) -/

section Loop

variable {once : State → Except Fault State} {s : State} {n : Nat}

theorem loopUntilXZero_of_zero (hx : s.cur.x = 0) : loopUntilXZero once n s = .ok s := by
  cases n <;> simp [loopUntilXZero, hx]

theorem loopUntilXZero_succ (hx : s.cur.x ≠ 0) :
    loopUntilXZero once (n + 1) s = once s >>= loopUntilXZero once n := by
  rw [loopUntilXZero, if_neg hx]

theorem loopUntilXZero_stuck (hx : s.cur.x ≠ 0) : loopUntilXZero once 0 s = .error .stuck := by
  rw [loopUntilXZero, if_neg hx]

/-- The loop after the passes of a chain: by induction on their number. -/
theorem loopUntilXZero_chain {chain : Nat → State} (n : Nat)
    (hchain : ∀ k, k < n → (chain k).cur.x ≠ 0 ∧ once (chain k) = .ok (chain (k + 1))) :
    ∀ m, loopUntilXZero once (n + m) (chain 0) = loopUntilXZero once m (chain n) := by
  induction n with
  | zero => exact fun m => by rw [Nat.zero_add]
  | succ n ih =>
    intro m
    obtain ⟨hx, hpass⟩ := hchain n (Nat.lt_succ_self n)
    calc loopUntilXZero once (n + 1 + m) (chain 0)
        = loopUntilXZero once (n + (m + 1)) (chain 0) := by rw [Nat.add_assoc, Nat.add_comm 1]
      _ = loopUntilXZero once (m + 1) (chain n) := ih (fun k hk => hchain k (Nat.lt_succ_of_lt hk)) (m + 1)
      _ = loopUntilXZero once m (chain (n + 1)) := by rw [loopUntilXZero_succ hx, hpass, ok_bind]

end Loop

/-- After the check `i` runs the passes `once` until X is 0. -/
def LoopsUntilXZero (i : Instr) (once : State → Except Fault State) (s : State) : Prop :=
  ChecksPrivilege i s do
    let s' ← loopUntilXZero once loopBound s
    return s'.advance

theorem loopsUntilXZero_of {i : Instr} {once : State → Except Fault State}
    (hi : i = .setpt ∧ once = setptOnce ∨ i = .clept ∧ once = cleptOnce) (s : State) : LoopsUntilXZero i once s := by
  obtain ⟨rfl, rfl⟩ | ⟨rfl, rfl⟩ := hi <;> rfl

/-- What is left of the loop after the `n` passes of a chain. -/
theorem LoopsUntilXZero.after_chain {i : Instr} {once : State → Except Fault State} {chain : Nat → State} {n : Nat}
    (h : LoopsUntilXZero i once (chain 0)) (hn : n ≤ loopBound)
    (hchain : ∀ k, k < n → (chain k).cur.x ≠ 0 ∧ once (chain k) = .ok (chain (k + 1))) :
    ChecksPrivilege i (chain 0) (do
      let s' ← loopUntilXZero once (loopBound - n) (chain n)
      return s'.advance) := by
  rw [← loopUntilXZero_chain n hchain, Nat.add_sub_cancel' hn]
  exact h

/-- Settles O33: the two passes, then the loop after the passes of the chain. -/
theorem pageTableLoops : Obligations.PageTableLoops := by
  unfold Obligations.PageTableLoops
  refine ⟨?passes, fun s i once hi hpriv => ⟨fun hx => ?empty, ?chain⟩⟩
  case passes =>
    intro s hready hwf w slot bits low
    exact ⟨⟨_, setptOnce_of_allReady hready rfl rfl rfl, setsAndStores_afterPass hwf⟩,
      ⟨_, cleptOnce_of_allReady hready rfl rfl, setsAndStores_afterPass hwf⟩⟩
  case empty =>
    refine (loopsUntilXZero_of hi s).completes hpriv ?_ (setsRegisters_advance s)
    rw [loopUntilXZero_of_zero hx]
    rfl
  case chain =>
    rintro chain n rfl hn hchain
    have hrest := (loopsUntilXZero_of hi (chain 0)).after_chain hn hchain
    refine ⟨fun hx => ?ends, fun f hlt hx hpass => ?fails, fun hmax hx => ?stuck⟩
    case ends =>
      refine hrest.completes hpriv ?_ (setsRegisters_advance (chain n))
      rw [loopUntilXZero_of_zero hx]
      rfl
    case fails =>
      refine hrest.fault hpriv ?_
      have hleft : 0 < loopBound - n := Nat.sub_pos_of_lt hlt
      rw [← Nat.succ_pred_eq_of_pos hleft, loopUntilXZero_succ hx, hpass]
      rfl
    case stuck =>
      subst hmax
      refine hrest.fault hpriv ?_
      rw [loopBound, Nat.sub_self, loopUntilXZero_stuck hx]
      rfl

end Sys2Proof.Proofs
end

section
/-! PROOFS. The contract of the nine instructions without a source algorithm (R222). -/

namespace Sys2Proof.Proofs

open Sys2Proof Sys2Proof.Machine

section Contract

variable {s t : State} {e : SintranEffect} {f : Fault} {i : Instr} {op : SintranOp}

/-- Each of the nine is its parameter function under the contract. -/
theorem exec_uninterpretedSintran (s : State) :
    ∀ i ∈ uninterpretedSintran, ∃ op, exec i s = finish (runSintran op i s) := by
  simp only [uninterpretedSintran, List.forall_mem_cons]
  exact ⟨⟨.clepu, rfl⟩, ⟨.chreentpages, rfl⟩, ⟨.clnreent, rfl⟩, ⟨.clpt, rfl⟩, ⟨.cnrek, rfl⟩, ⟨.enpt, rfl⟩, ⟨.inspl, rfl⟩,
    ⟨.rempl, rfl⟩, ⟨.rept, rfl⟩, List.forall_mem_nil _⟩

theorem sintranFrame_sintranRegisters (s : State) (e : SintranEffect) (mem : Memory) :
    SintranFrame s { sintranRegisters s e with mem := mem } := by
  obtain ⟨hcur, hlevels, -⟩ := setsRegisters_setCur s
    { s.cur.step with sts := e.sts, d := e.d, b := e.b, l := e.l, a := e.a, t := e.t, x := e.x }
  exact ⟨congrArg Regs.p hcur, hlevels, ⟨rfl, rfl, rfl, rfl, rfl, rfl, rfl, rfl, rfl, rfl, rfl, rfl, rfl, rfl, rfl⟩⟩

theorem sintranFrame_of_writes (h : sintranWrites (sintranRegisters s e) e.writes = .ok t) : SintranFrame s t := by
  obtain ⟨-, rfl⟩ := sintranWrites_ok _ h
  exact sintranFrame_sintranRegisters s e _

theorem isTranslationFault_of_reportedFault (h : reportedFault s e = .error f) : IsTranslationFault f := by
  unfold reportedFault at h
  split at h
  · split at h
    · next pa kind _ => exact ⟨pa, kind, (Except.error.inj h).symm⟩
    · cases h
  · cases h

theorem isTranslationFault_of_sintranWrites {l : List (PhysAddr × Word)} (h : sintranWrites s l = .error f) :
    IsTranslationFault f := by
  obtain ⟨w, -, -, hf⟩ := sintranWrites_error l h
  exact ⟨w.1, .nonexistent, hf⟩

/-- Privilege granted, the function's answer is a next state within the frame or the fault of an access. -/
theorem runSintran_contract (op : SintranOp) (i : Instr) (hpriv : privOk s = true) :
    (∃ t, runSintran op i s = .ok t ∧ SintranFrame s t) ∨ ∃ f, runSintran op i s = .error f ∧ IsTranslationFault f := by
  rw [runSintran, requirePrivilege_of_ok hpriv, ok_bind]
  cases hreport : reportedFault s (sintran op s) with
  | error f => exact .inr ⟨f, rfl, isTranslationFault_of_reportedFault hreport⟩
  | ok u =>
    rw [ok_bind]
    cases hwrites : sintranWrites (sintranRegisters s (sintran op s)) (sintran op s).writes with
    | error f => exact .inr ⟨f, rfl, isTranslationFault_of_sintranWrites hwrites⟩
    | ok t => exact .inl ⟨t, rfl, sintranFrame_of_writes hwrites⟩

/-! ## All memory in reach (log 11) -/

theorem reportedFault_of_allReady (h : AllReady s) : reportedFault s e = .ok () := by
  obtain ⟨hoff, hwords⟩ := h
  have hnone : anyAccessCanFault s = false := by
    rw [anyAccessCanFault, hoff, Bool.false_or]
    exact decide_eq_false (Nat.not_lt.mpr hwords)
  simp [reportedFault, hnone]

theorem sintranWrites_of_allReady (h : AllReady s) (l : List (PhysAddr × Word)) : ∃ t, sintranWrites s l = .ok t := by
  cases hwrites : sintranWrites s l with
  | ok t => exact ⟨t, rfl⟩
  | error f =>
    obtain ⟨w, -, hout, -⟩ := sintranWrites_error l hwrites
    exact absurd (lt_physWords_of_allReady h w.1) (Nat.not_lt.mpr hout)

theorem runSintran_of_allReady (op : SintranOp) (i : Instr) (h : AllReady s) :
    ∃ t, runSintran op i s = .ok t ∧ SintranFrame s t := by
  obtain ⟨t, hwrites⟩ := sintranWrites_of_allReady (s := sintranRegisters s (sintran op s)) h (sintran op s).writes
  refine ⟨t, ?_, sintranFrame_of_writes hwrites⟩
  rw [runSintran, requirePrivilege_of_ok (privOk_of_off h.1), reportedFault_of_allReady h]
  exact hwrites

end Contract

/-- Settles O34: the contract of the parameter function, whichever of the nine. -/
theorem sintranContract : Obligations.SintranContract := by
  unfold Obligations.SintranContract
  intro i s hi hpriv
  obtain ⟨op, hexec⟩ := exec_uninterpretedSintran s i hi
  refine ⟨?contract, fun hready => ?complete⟩
  case contract =>
    rcases runSintran_contract op i hpriv with ⟨t, hrun, hframe⟩ | ⟨f, hrun, pa, kind, rfl⟩
    · exact .inl ⟨t, by rw [hexec, hrun, finish_ok], hframe⟩
    · exact .inr ⟨pa, kind, by rw [hexec, hrun, finish_error]⟩
  case complete =>
    obtain ⟨t, hrun, hframe⟩ := runSintran_of_allReady op i hready
    exact .ok hexec hrun hframe

end Sys2Proof.Proofs
end

section
/-! PROOFS. The contract of the six decimal instructions (R251). Each computes a memory from the answer of its parameter function
and puts it in place of the old one: what can stop the computation, which words it changes, and the registers it leaves. -/

namespace Sys2Proof.Proofs

open Sys2Proof Sys2Proof.Machine

/-! ## One meaning for the six -/

/-- The instruction that runs each parameter function (R251). -/
def decimalInstr : DecimalOp → Instr
  | .addd => .addd
  | .subd => .subd
  | .comd => .comd
  | .pack => .pack
  | .upack => .upack
  | .shde => .shde

/-- The memory a decimal instruction leaves: `COMD` stops at a reported fault as the others do, but writes no field. -/
def decimalMemory (op : DecimalOp) (s : State) : Except Fault Memory := do
  decimalFault s (decimalEffect op s)
  if op = .comd then return s.mem else writeFields op s (decimalEffect op s)

/-- The registers a decimal instruction leaves: what R244 and R247 fix replaces the function's own. -/
def decimalResult (op : DecimalOp) (s : State) : Regs :=
  let e := decimalEffect op s
  match op with
  | .addd | .subd | .shde => decimalRegs s e
  | .comd => { decimalRegs s e with a := if e.ok then comparisonWord e.comparison else e.a }
  | .pack | .upack => { decimalRegs s e with d := if e.ok then e.d else withErrorCode e.d (errorCode e.error) }

@[simp] theorem decimalInstr_eq_comd {op : DecimalOp} : decimalInstr op = .comd ↔ op = .comd := by
  cases op <;> simp [decimalInstr]

@[simp] theorem decimalInstr_eq_pack {op : DecimalOp} : decimalInstr op = .pack ↔ op = .pack := by
  cases op <;> simp [decimalInstr]

@[simp] theorem decimalInstr_eq_upack {op : DecimalOp} : decimalInstr op = .upack ↔ op = .upack := by
  cases op <;> simp [decimalInstr]

section Contract

variable {s : State} {op : DecimalOp} {mem : Memory} {f : Fault}

theorem exists_decimalInstr :
    ∀ i ∈ [Instr.addd, .subd, .comd, .pack, .upack, .shde], ∃ op, i = decimalInstr op := by
  simp only [List.forall_mem_cons]
  exact ⟨⟨.addd, rfl⟩, ⟨.subd, rfl⟩, ⟨.comd, rfl⟩, ⟨.pack, rfl⟩, ⟨.upack, rfl⟩, ⟨.shde, rfl⟩, List.forall_mem_nil _⟩

theorem replacesMemory_decimal (op : DecimalOp) (s : State) :
    ReplacesMemory (decimalInstr op) s (decimalMemory op s) (decimalResult op s) := by
  rw [ReplacesMemory, decimalMemory, bind_assoc]
  cases op <;> rfl

/-! ## What can stop it (R63, R463) -/

theorem decimalFault_error {e : DecimalEffect} (h : decimalFault s e = .error f) :
    ∃ addr kind, locate s addr kind = .error f := by
  unfold decimalFault at h
  split at h
  case h_1 => cases h
  case h_2 addr write _ =>
    refine ⟨addr, if write then .write else .read, ?_⟩
    cases hlocate : locate s addr (if write then .write else .read) with
    | ok pa => rw [hlocate] at h; cases h
    | error g => rw [hlocate] at h; cases h; rfl

theorem writeFields_error {e : DecimalEffect} (h : writeFields op s e = .error f) :
    ∃ addr kind, locate s addr kind = .error f := by
  unfold writeFields at h
  cases hfirst : writeField s (e.op1.take ((firstOperand s).words op.firstForm)) s.cur.a s.mem with
  | error g =>
    obtain ⟨k, -, hlocate⟩ := writeField_error _ hfirst
    rw [hfirst] at h
    cases h
    exact ⟨_, _, hlocate⟩
  | ok m =>
    rw [hfirst] at h
    obtain ⟨k, -, hlocate⟩ := writeField_error _ h
    exact ⟨_, _, hlocate⟩

/-- Only an access that fails stops a decimal instruction. -/
theorem decimalMemory_error (h : decimalMemory op s = .error f) : ∃ addr kind, locate s addr kind = .error f := by
  unfold decimalMemory at h
  cases hfault : decimalFault s (decimalEffect op s) with
  | error g =>
    rw [hfault] at h
    cases h
    exact decimalFault_error hfault
  | ok u =>
    rw [hfault, ok_bind] at h
    split at h
    · cases h
    · exact writeFields_error h

theorem decimalMemory_of_bankZero (h : BankZeroReady s) (op : DecimalOp) : ∃ mem, decimalMemory op s = .ok mem := by
  cases hmem : decimalMemory op s with
  | ok mem => exact ⟨mem, rfl⟩
  | error f =>
    obtain ⟨addr, kind, hlocate⟩ := decimalMemory_error hmem
    obtain ⟨hoff, hinstalled⟩ := h
    rw [locate_bankZero hoff hinstalled] at hlocate
    cases hlocate

/-! ## The words it changes (R243, log 12) -/

/-- The extent of an operand in the model and by its second descriptor word. -/
theorem words_ofWords (d1 d2 : Word) (form : DecimalForm) :
    (DecimalOperand.ofWords d1 d2).words form = operandWords (form == .ascii) d2 := by
  have hlength : (d2.extractLsb' 0 5).toNat = d2.toNat % 32 := by simp
  have hright : (d2.getLsbD 15).toNat = d2.toNat / 32768 := by
    have hmsb := BitVec.msb_eq_getLsbD_last d2
    have hlt := d2.isLt
    rw [← hmsb, msb_eq_le]
    by_cases hhigh : 32768 ≤ d2.toNat
    · rw [decide_eq_true hhigh, Bool.toNat_true]; omega
    · rw [decide_eq_false hhigh, Bool.toNat_false]; omega
  have hempty : d2.extractLsb' 0 5 = 0 ↔ d2.toNat % 32 = 0 := by
    rw [← hlength, BitVec.toNat_eq]; rfl
  simp only [DecimalOperand.words, DecimalOperand.ofWords, operandWords, hlength, hright, hempty]
  cases form <;> rfl

theorem mem_operandField {ascii : Bool} {d1 d2 : Word} {k : Nat} (h : k < operandWords ascii d2) :
    d1 + BitVec.ofNat 16 k ∈ operandField ascii d1 d2 :=
  List.mem_map.mpr ⟨k, List.mem_range.mpr h, rfl⟩

/-- `PACK` alone has its first operand in ASCII (R248). -/
theorem firstForm_ascii (op : DecimalOp) : (op.firstForm == .ascii) = (decimalInstr op == .pack) := by
  cases op <;> rfl

/-- `UPACK` alone has its second operand in ASCII (R249). -/
theorem secondForm_ascii (op : DecimalOp) : (op.secondForm == .ascii) = (decimalInstr op == .upack) := by
  cases op <;> rfl

/-- A field written no further than its operand covers: a byte changes only in a word of it that a write reaches. -/
theorem writeField_take_ok {l : List (Option Word)} {form : DecimalForm} {d1 d2 : Word} {m m' : Memory} {k : Nat}
    (h : writeField s (l.take ((DecimalOperand.ofWords d1 d2).words form)) d1 m = .ok m')
    (hk : m'.readByte k ≠ m.readByte k) :
    ∃ addr ∈ operandField (form == .ascii) d1 d2, ∃ pa, locate s addr .write = .ok pa ∧ k / 2 = pa.toNat := by
  obtain ⟨-, hchanged⟩ := writeField_ok _ h
  obtain ⟨j, hj, hpa⟩ := hchanged k hk
  rw [words_ofWords, List.length_take] at hj
  exact ⟨_, mem_operandField (Nat.lt_of_lt_of_le hj (Nat.min_le_left _ _)), hpa⟩

theorem writeFields_ok {e : DecimalEffect} (h : writeFields op s e = .ok mem) {k : Nat}
    (hk : mem.readByte k ≠ s.mem.readByte k) :
    ∃ addr ∈ decimalFields (decimalInstr op) s, ∃ pa, locate s addr .write = .ok pa ∧ k / 2 = pa.toNat := by
  obtain ⟨m, hfirst, hsecond⟩ := bind_ok.mp h
  rw [decimalFields, ← firstForm_ascii, ← secondForm_ascii]
  by_cases hm : m.readByte k = s.mem.readByte k
  · obtain ⟨addr, haddr, hpa⟩ := writeField_take_ok hsecond (hm ▸ hk)
    exact ⟨addr, List.mem_append_right _ haddr, hpa⟩
  · obtain ⟨addr, haddr, hpa⟩ := writeField_take_ok hfirst hm
    exact ⟨addr, List.mem_append_left _ haddr, hpa⟩

theorem decimalMemory_ok (h : decimalMemory op s = .ok mem) :
    op = .comd ∧ mem = s.mem ∨ writeFields op s (decimalEffect op s) = .ok mem := by
  obtain ⟨_, -, hwrite⟩ := bind_ok.mp h
  split at hwrite
  · next hop => exact .inl ⟨hop, (Except.ok.inj hwrite).symm⟩
  · exact .inr hwrite

theorem decimalMemory_comd (h : decimalMemory .comd s = .ok mem) : mem = s.mem := by
  obtain ⟨_, -, hwrite⟩ := bind_ok.mp h
  exact (Except.ok.inj hwrite).symm

theorem decimalMemory_changed (h : decimalMemory op s = .ok mem) {k : Nat}
    (hk : mem.readByte k ≠ s.mem.readByte k) :
    ∃ addr ∈ decimalFields (decimalInstr op) s, ∃ pa, locate s addr .write = .ok pa ∧ k / 2 = pa.toNat := by
  rcases decimalMemory_ok h with ⟨-, rfl⟩ | hwrite
  · exact absurd rfl hk
  · exact writeFields_ok hwrite hk

/-! ## The registers it leaves (R244, R247, R468) -/

@[simp] theorem decimalResult_p (op : DecimalOp) (s : State) :
    (decimalResult op s).p = s.cur.p + if (decimalEffect op s).ok then 2 else 1 := by
  cases op <;> simp [decimalResult, decimalRegs]

@[simp] theorem decimalResult_b (op : DecimalOp) (s : State) : (decimalResult op s).b = s.cur.b := by
  cases op <;> simp [decimalResult, decimalRegs]

@[simp] theorem decimalResult_l (op : DecimalOp) (s : State) : (decimalResult op s).l = s.cur.l := by
  cases op <;> simp [decimalResult, decimalRegs]

theorem decimalResult_sts (op : DecimalOp) (s : State) :
    (decimalResult op s).sts = (decimalRegs s (decimalEffect op s)).sts := by
  cases op <;> rfl

/-- P tells whether the function reported an error (R244). -/
theorem decimalResult_steps : (decimalResult op s).p = s.cur.p + 1 ↔ (decimalEffect op s).ok = false := by
  cases hok : (decimalEffect op s).ok <;> simp [hok]

theorem decimalResult_skips : (decimalResult op s).p = s.cur.p + 2 ↔ (decimalEffect op s).ok = true := by
  cases hok : (decimalEffect op s).ok <;> simp [hok]

theorem decimalResult_z_of_error (h : (decimalEffect op s).ok = false) : (decimalResult op s).sts.getLsbD 3 = true := by
  rw [decimalResult_sts, decimalRegs, h]
  exact setBitTo_bit _ 3 3 true (by decide)

theorem comparisonWord_values (c : Comparison) :
    comparisonWord c = 0 ∨ comparisonWord c = 1 ∨ comparisonWord c = 0o177777 := by
  cases c <;> decide

theorem decimalResult_comd_a (h : (decimalEffect .comd s).ok = true) :
    (decimalResult .comd s).a = comparisonWord (decimalEffect .comd s).comparison := by
  simp [decimalResult, h]

theorem withErrorCode_values (d : Word) (error : ConversionError) :
    (withErrorCode d (errorCode error)).extractLsb' 0 5 = 2#5 ∨ (withErrorCode d (errorCode error)).extractLsb' 0 5 = 3#5 := by
  rw [withErrorCode, append_low]
  cases error <;> decide

theorem decimalResult_conversion_d (hop : op = .pack ∨ op = .upack) (h : (decimalEffect op s).ok = false) :
    (decimalResult op s).d = withErrorCode (decimalEffect op s).d (errorCode (decimalEffect op s).error) := by
  rcases hop with rfl | rfl <;> simp [decimalResult, h]

theorem decimalFrame_of {t : State} (h : SetsRegistersAndMemory s t (decimalResult op s)) : DecimalFrame s t := by
  have hcur := h.cur
  refine ⟨?_, ?_, ?_, h.sameOtherLevels, h.sameControl⟩
  · rw [hcur, decimalResult_steps, decimalResult_skips]
    exact (Bool.eq_false_or_eq_true _).symm
  · rw [hcur, decimalResult_b]
  · rw [hcur, decimalResult_l]

end Contract

/-- Settles O35: the memory computed is within the two fields, the registers are those of the function's answer, and only a failing
access keeps the instruction from completing. -/
theorem decimalContract : Obligations.DecimalContract := by
  unfold Obligations.DecimalContract
  intro i s hi effect
  obtain ⟨op, rfl⟩ := exists_decimalInstr i hi
  have hmeaning := replacesMemory_decimal op s
  have heffect : ∀ mem, decimalMemory op s = .ok mem → effect { s.setCur (decimalResult op s) with mem := mem } := by
    intro mem hmem
    have ht : SetsRegistersAndMemory s { s.setCur (decimalResult op s) with mem := mem } (decimalResult op s) := rfl
    refine ⟨decimalFrame_of ht, fun k => decimalMemory_changed hmem, ?z, fun hcomd => ?comd, fun hconv => ?conversion⟩
    all_goals rw [ht.cur]
    case z => exact fun hp => decimalResult_z_of_error (decimalResult_steps.mp hp)
    case comd =>
      obtain rfl := decimalInstr_eq_comd.mp hcomd
      obtain rfl := decimalMemory_comd hmem
      refine ⟨fun _ => rfl, fun hp => ?_⟩
      rw [decimalResult_comd_a (decimalResult_skips.mp hp)]
      exact comparisonWord_values _
    case conversion =>
      intro hp
      rw [decimalInstr_eq_pack, decimalInstr_eq_upack] at hconv
      rw [decimalResult_conversion_d hconv (decimalResult_steps.mp hp)]
      exact withErrorCode_values _ _
  refine ⟨?contract, fun hready => ?complete⟩
  case contract =>
    cases hmem : decimalMemory op s with
    | ok mem => exact .inl (hmeaning.completes hmem (heffect mem hmem))
    | error f =>
      obtain ⟨addr, kind, hlocate⟩ := decimalMemory_error hmem
      obtain ⟨pa, kind', rfl⟩ := isTranslationFault_of_locate hlocate
      exact .inr ⟨pa, kind', hmeaning.fault hmem⟩
  case complete =>
    obtain ⟨mem, hmem⟩ := decimalMemory_of_bankZero hready op
    exact hmeaning.completes hmem (heffect mem hmem)

end Sys2Proof.Proofs
end

section
/-! PROOFS. The registers of any level, read by `IRR` and written by `IRW` (R272, R273). -/

namespace Sys2Proof.Proofs

open Sys2Proof Sys2Proof.Machine

variable {s : State} {level : Level} {r f : RegField}

/-! ## IRR (R272) -/

theorem rightByte_joinBytes (left right : Byte) : rightByte (joinBytes left right) = right := append_low left right

/-- STS of any level reads with its flags in bits 7-0 (R31). -/
theorem rightByte_stsOfLevel (s : State) (n : Level) : rightByte (stsOfLevel s n) = (s.lv n).sts := by
  unfold stsOfLevel
  split
  case isTrue hpil => exact hpil ▸ rightByte_joinBytes s.modeBits s.cur.sts
  case isFalse => exact rightByte_joinBytes _ _

theorem stsOfLevel_pil (s : State) : stsOfLevel s s.pil = statusRead s := (if_pos rfl).trans (stsWord_eq_statusRead s)

theorem checksPrivilege_irr (s : State) (level : Level) (hr : r ≠ .code0) :
    ChecksPrivilege (.irr level r) s
      (.ok (s.setCur { s.cur with p := s.cur.p + 1, a := (s.lv level).operand r })) := by
  cases r with
  | code0 => exact absurd rfl hr
  | _ => rfl

/-- The state after `IRR` of STS: of another level one value is drawn (log 7). -/
def irrSts (level : Level) (s : State) : State :=
  (s.drawn (stsDraws s level)).setCur { s.cur with p := s.cur.p + 1, a := stsOfLevel s level }

theorem checksPrivilege_irrSts (s : State) (level : Level) :
    ChecksPrivilege (.irr level .code0) s (.ok (irrSts level s)) := rfl

theorem irrSts_cur_a (s : State) (level : Level) : (irrSts level s).cur.a = stsOfLevel s level := by
  rw [irrSts, State.setCur_cur]

theorem setsRegisters_irrSts (s : State) (level : Level) :
    SetsRegisters s (irrSts level s) { s.cur with p := s.cur.p + 1, a := (irrSts level s).cur.a } := by
  rw [irrSts_cur_a]
  exact setsRegisters_drawn s _ _

/-! ## IRW (R273) -/

theorem setAny_sts (q : Regs) (r : RegField) (v : Word) :
    (q.setAny r v).sts = if r = .code0 then rightByte v else q.sts := by
  cases r <;> rfl

theorem setAny_p (q : Regs) (r : RegField) (v : Word) : (q.setAny r v).p = if r = .p then v else q.p := by
  cases r <;> rfl

/-- STS aside, the register that takes the value is the one the code names. -/
theorem setAny_operand (q : Regs) (r : RegField) (v : Word) (hf : f ≠ .code0) :
    (q.setAny r v).operand f = if f = r then v else q.operand f := by
  by_cases hr : r = .code0
  · subst hr
    rw [if_neg hf]
    cases f <;> rfl
  · have hset : q.setAny r v = q.setDest r v := by
      cases r with
      | code0 => exact absurd rfl hr
      | _ => rfl
    rw [hset, Regs.setDest_operand q r f v hf]

theorem advance_lv_pil (s : State) : s.advance.lv s.pil = s.cur.step := s.advance_cur

theorem advance_lv_sts (s : State) (n : Level) : (s.advance.lv n).sts = (s.lv n).sts := by
  by_cases hn : n = s.pil
  · rw [hn, advance_lv_pil]
    rfl
  · rw [s.advance_lv_ne n hn]

theorem advance_lv_p (s : State) (n : Level) :
    (s.advance.lv n).p = if n = s.pil then s.cur.p + 1 else (s.lv n).p := by
  by_cases hn : n = s.pil
  · rw [if_pos hn, hn, advance_lv_pil]
    rfl
  · rw [if_neg hn, s.advance_lv_ne n hn]

theorem advance_lv_operand (s : State) (n : Level) (hf : f ≠ .p) :
    (s.advance.lv n).operand f = (s.lv n).operand f := by
  by_cases hn : n = s.pil
  · rw [hn, advance_lv_pil, step_operand _ hf]
    rfl
  · rw [s.advance_lv_ne n hn]

/-- The state after `IRW`: P has passed the instruction when the register is written (R26). -/
def irwState (level : Level) (r : RegField) (s : State) : State :=
  s.advance.setLv level ((s.advance.lv level).setAny r s.cur.a)

theorem checksPrivilege_irw (s : State) (level : Level) (r : RegField) :
    ChecksPrivilege (.irw level r) s (.ok (irwState level r s)) := rfl

theorem irwState_lv (s : State) (level : Level) (r : RegField) :
    (irwState level r s).lv level = (s.advance.lv level).setAny r s.cur.a := State.setLv_lv_same _ _ _

theorem irwState_lv_ne {n : Level} (hlevel : n ≠ level) (hpil : n ≠ s.pil) : (irwState level r s).lv n = s.lv n := by
  rw [irwState, State.setLv_lv_ne _ _ _ _ hlevel, s.advance_lv_ne n hpil]

theorem irwState_cur (hlevel : level ≠ s.pil) : (irwState level r s).cur = { s.cur with p := s.cur.p + 1 } :=
  (State.setLv_cur_ne s.advance level _ hlevel).trans s.advance_cur

theorem sameControl_irwState (s : State) (level : Level) (r : RegField) : SameControl s (irwState level r s) :=
  ⟨rfl, rfl, rfl, rfl, rfl, rfl, rfl, rfl, rfl, rfl, rfl, rfl, rfl, rfl, rfl⟩

/-- Settles O43: `IRR` reads the level before the advance of P, `IRW` writes it after. -/
theorem interLevelRegisters : Obligations.InterLevelRegisters := by
  unfold Obligations.InterLevelRegisters
  intro level s hpriv
  refine ⟨fun r hr => ?irr, ?irrSts, fun r => ?irw⟩
  case irr => exact (checksPrivilege_irr s level hr).completes hpriv rfl (setsRegisters_setCur s _)
  case irrSts =>
    refine (checksPrivilege_irrSts s level).completes hpriv rfl ⟨setsRegisters_irrSts s level, ?flags, ?current⟩
    case flags => exact irrSts_cur_a s level ▸ rightByte_stsOfLevel s level
    case current =>
      rintro rfl
      exact (irrSts_cur_a s s.pil).trans (stsOfLevel_pil s)
  case irw =>
    refine (checksPrivilege_irw s level r).completes hpriv rfl
      ⟨fun _ => irwState_lv_ne, sameControl_irwState s level r, fun _ => rfl, irwState_cur, ?sts, ?p,
        fun f hf hfp => ?operand⟩
    all_goals rw [irwState_lv]
    case sts =>
      rw [setAny_sts, advance_lv_sts]
      rfl
    case p => rw [setAny_p, advance_lv_p]
    case operand => rw [setAny_operand _ _ _ hf, advance_lv_operand s level hfp]

end Sys2Proof.Proofs
end

section
/-! PROOFS. The switches of the interrupt and memory-management systems (R277, R278, R280, R293 to R297), `LWCS`, and the two
instructions that can stop the machine (R279, R281). After the privilege check each advances P in a state with fields of the
control changed. -/

namespace Sys2Proof.Proofs

open Sys2Proof Sys2Proof.Machine

/-- After the check `i` advances P in `u`. -/
def AdvancesIn (i : Instr) (s u : State) : Prop := ChecksPrivilege i s (.ok u.advance)

variable {i : Instr} {s u : State}

theorem AdvancesIn.completes (h : AdvancesIn i s u) (hpriv : privOk s = true) :
    Completes i s fun t => SetsRegisters u t { u.cur with p := u.cur.p + 1 } :=
  ChecksPrivilege.completes h hpriv rfl (setsRegisters_advance u)

theorem AdvancesIn.completes_and (h : AdvancesIn i s u) (hpriv : privOk s = true) {also : State → Prop}
    (halso : also u.advance) :
    Completes i s fun t => SetsRegisters u t { u.cur with p := u.cur.p + 1 } ∧ also t :=
  ChecksPrivilege.completes h hpriv rfl ⟨setsRegisters_advance u, halso⟩

/-! ## The switches -/

theorem advancesIn_iof (s : State) : AdvancesIn .iof s { s with ioni := false } := rfl

theorem advancesIn_ion (s : State) : AdvancesIn .ion s { s with ioni := true } := rfl

theorem advancesIn_pof (s : State) : AdvancesIn .pof s { s with poni := false } := rfl

theorem advancesIn_pon (s : State) : AdvancesIn .pon s { s with poni := true } := rfl

theorem advancesIn_piof (s : State) : AdvancesIn .piof s { s with poni := false, ioni := false } := rfl

theorem advancesIn_pion (s : State) : AdvancesIn .pion s { s with poni := true, ioni := true } := rfl

theorem advancesIn_rex (s : State) : AdvancesIn .rex s { s with sexi := false } := rfl

theorem advancesIn_sex (s : State) : AdvancesIn .sex s { s with sexi := true } := rfl

/-- With the interrupt system off the level stays (R446). -/
theorem levelChange_of_ioni_off (h : s.ioni = false) : levelChange s = s := by simp [levelChange, h]

/-- Settles O46: the six words, and for the six instructions either answer of the privilege check. -/
theorem modeSwitches : Obligations.ModeSwitches := by
  unfold Obligations.ModeSwitches
  intro s
  refine ⟨rfl, rfl, rfl, rfl, rfl, rfl, fun hpriv => ⟨?iof, ?pof, ?piof, ?pion, ?rex, ?sex⟩, ?check⟩
  case iof => exact (advancesIn_iof s).completes_and hpriv (levelChange_of_ioni_off rfl)
  case pof => exact (advancesIn_pof s).completes_and hpriv (privOk_of_off rfl)
  case piof => exact (advancesIn_piof s).completes_and hpriv (levelChange_of_ioni_off rfl)
  case pion => exact (advancesIn_pion s).completes hpriv
  case rex => exact (advancesIn_rex s).completes hpriv
  case sex => exact (advancesIn_sex s).completes hpriv
  case check =>
    cases hpriv : privOk s with
    | true => exact .inl rfl
    | false =>
      simp only [List.forall_mem_cons]
      exact .inr ⟨(advancesIn_iof s).violation hpriv, (advancesIn_pof s).violation hpriv,
        (advancesIn_piof s).violation hpriv, (advancesIn_pion s).violation hpriv, (advancesIn_rex s).violation hpriv,
        (advancesIn_sex s).violation hpriv, List.forall_mem_nil _⟩

/-! ## LWCS (R330, decision D41) -/

theorem exec_lwcs_nd110 (hpriv : privOk s = true) (hcpu : s.params.cpuModel = .nd110) :
    exec .lwcs s = .next s.advance := by
  simp only [exec, execLwcs, requirePrivilege_of_ok hpriv, hcpu]

theorem exec_lwcs_nd100 (hpriv : privOk s = true) (hcpu : s.params.cpuModel = .nd100) :
    exec .lwcs s = .refused (.unmodelledInstruction "LWCS") := by
  simp only [exec, execLwcs, requirePrivilege_of_ok hpriv, hcpu]

/-- Settles O47: the two switches, and the two CPU models of `LWCS`. -/
theorem ionPonAndLwcs : Obligations.IonPonAndLwcs := by
  unfold Obligations.IonPonAndLwcs
  intro s hpriv
  exact ⟨(advancesIn_ion s).completes hpriv, (advancesIn_pon s).completes hpriv,
    fun hcpu => .next (exec_lwcs_nd110 hpriv hcpu) (setsRegisters_advance s), exec_lwcs_nd100 hpriv⟩

/-! ## WAIT and OPCOM (R279, R281, R449) -/

theorem advancesIn_opcom (s : State) : AdvancesIn .opcom s { s with run := .off .opcom } := rfl

theorem checksPrivilege_wait (s : State) (n : Byte) : ChecksPrivilege (.wait n) s
    (.ok (if !s.ioni then halt s (.wait n) else if s.pil = 0 then s.advance else giveUpPriority s)) := rfl

theorem advancesIn_wait_of_ioni_off (n : Byte) (hioni : s.ioni = false) :
    AdvancesIn (.wait n) s { s with run := .off (.wait n) } := by
  have h := checksPrivilege_wait s n
  rw [hioni] at h
  exact h

theorem advancesIn_wait_of_levelZero (n : Byte) (hioni : s.ioni = true) (hpil : s.pil = 0) :
    AdvancesIn (.wait n) s s := by
  have h := checksPrivilege_wait s n
  rw [hioni, if_pos hpil] at h
  exact h

theorem advancesIn_wait_of_levelAboveZero (n : Byte) (hioni : s.ioni = true) (hpil : s.pil ≠ 0) :
    AdvancesIn (.wait n) s { s with pid := s.pid &&& ~~~(1#16 <<< s.pil.toNat) } := by
  have h := checksPrivilege_wait s n
  rw [hioni, if_neg hpil] at h
  exact h

/-- Settles O48: the three cases of `WAIT`, and the next step of a stopped machine. -/
theorem waitAndOpcom : Obligations.WaitAndOpcom := by
  unfold Obligations.WaitAndOpcom
  intro n s hpriv
  refine ⟨fun hioni => ?off, fun hioni hpil => ?levelZero, fun hioni hpil => ?givesUp, ?opcom⟩
  case off => exact (advancesIn_wait_of_ioni_off n hioni).completes_and hpriv (step_of_off rfl)
  case levelZero => exact (advancesIn_wait_of_levelZero n hioni hpil).completes hpriv
  case givesUp => exact (advancesIn_wait_of_levelAboveZero n hioni hpil).completes hpriv
  case opcom => exact (advancesIn_opcom s).completes_and hpriv (step_of_off rfl)

end Sys2Proof.Proofs
end

section
/-! PROOFS. Input and output (R265, R266, R276): one word is exchanged with the host, whose answer is open (log 8). -/

namespace Sys2Proof.Proofs

open Sys2Proof Sys2Proof.Machine

variable {s : State}

/-- Bit 0 of the device address is the direction (R64). -/
theorem exchange_effect (s : State) (dev : Word) :
    if dev.getLsbD 0 then
      SetsRegisters { s with ioTrace := s.ioTrace ++ [.write dev s.cur.a] } (exchange s dev)
        { s.cur with p := s.cur.p + 1 }
    else ∃ v, SetsRegisters { s with ioTrace := s.ioTrace ++ [.read dev v] } (exchange s dev)
      { s.cur with p := s.cur.p + 1, a := v } := by
  unfold exchange
  split
  case isTrue => exact setsRegisters_advance (s.traced _)
  case isFalse => exact ⟨ioRead s dev, setsRegisters_setCur (s.traced _) _⟩

theorem checksPrivilege_iox (s : State) (addr : BitVec 11) :
    ChecksPrivilege (.iox addr) s (.ok (exchange s (addr.setWidth 16))) := rfl

theorem checksPrivilege_ioxt (s : State) : ChecksPrivilege .ioxt s (.ok (exchange s s.cur.t)) := rfl

theorem ident_completes {code : BitVec 6} {level : Level} (hpriv : privOk s = true) (hcode : identOk code = true)
    (hlevel : identLevel code = level) :
    Completes (.ident code) s fun t => ∃ v,
      SetsRegisters { s with ioTrace := s.ioTrace ++ [.ident level v] } t { s.cur with p := s.cur.p + 1, a := v } := by
  subst hlevel
  exact completes_of_checks rfl hpriv hcode
    ⟨identCode s (identLevel code), setsRegisters_setCur (s.traced _) _⟩

/-- Settles O49: `IOX` and `IOXT` are the exchange, `IDENT` has four codes. -/
theorem inputOutput : Obligations.InputOutput := by
  unfold Obligations.InputOutput
  intro s hpriv
  refine ⟨fun addr => ?iox, ?ioxt, ?ident⟩
  case iox => exact (checksPrivilege_iox s addr).completes hpriv rfl (exchange_effect s _)
  case ioxt => exact (checksPrivilege_ioxt s).completes hpriv rfl (exchange_effect s _)
  case ident =>
    simp only [List.forall_mem_cons]
    exact ⟨ident_completes hpriv rfl rfl, ident_completes hpriv rfl rfl, ident_completes hpriv rfl rfl,
      ident_completes hpriv rfl rfl, List.forall_mem_nil _⟩

end Sys2Proof.Proofs
end

section
/-! PROOFS. Execute (R260, decisions D15, D16): the decoded register runs by its own rule. -/

namespace Sys2Proof.Proofs

open Sys2Proof Sys2Proof.Machine

variable {s : State} {sr : RegField} {i : Instr}

theorem exrOk_eq_true (hcode0 : sr ≠ .code0) (hp : sr ≠ .p) : exrOk sr = true := by
  simp only [exrOk, Bool.and_eq_true, bne_iff_ne]
  exact ⟨hcode0, hp⟩

theorem exec_exr_of_decode (dr : RegField) (hsr : exrOk sr = true)
    (hdecode : decodeWord s.params.opcodes (s.cur.operand sr) = .ok i) : exec (.exr sr dr) s = executed i s := by
  have hchecked : requireOperand s (.exr sr dr) .exrRegister (exrOk sr) = .ok () := requireOperand_ok.mpr hsr
  simp only [exec, execExr, hchecked, hdecode]

/-- Z is bit 3 of STS (R27). -/
theorem setBitTo_three_eq_withZ : ∀ (sts : Byte) (v : Bool), setBitTo sts 3 v = withZ sts v := by decide

theorem setsRegisters_nestedExr (s : State) :
    SetsRegisters s (nestedExr s) { s.cur with p := s.cur.p + 1, sts := withZ s.cur.sts true } := by
  rw [← setBitTo_three_eq_withZ]
  exact setsRegisters_setCur s _

theorem encode_saa_toNat (o : Opcodes) (arg : Byte) : (encode o (.saa arg)).toNat = 0o170400 + arg.toNat :=
  toNat_subField 30#5 1#3 arg

theorem decodeWord_saa (o : Opcodes) {w : Word} {arg : Byte} (hw : w.toNat = 0o170400 + arg.toNat) :
    decodeWord o w = .ok (.saa arg) := by
  obtain rfl : w = encode o (.saa arg) := BitVec.eq_of_toNat_eq (hw.trans (encode_saa_toNat o arg).symm)
  refine decodeWord_fixed ((decodeFixed_argument (1#3 ++ arg)).trans ?_)
  simp [decodeArgument]

/-- Settles O60: the register is read once, by the decoder; `SAA` into it is an instruction like any other. -/
theorem executeRegister : Obligations.ExecuteRegister := by
  unfold Obligations.ExecuteRegister
  intro sr dr s hcode0 hp
  have hsr := exrOk_eq_true hcode0 hp
  refine ⟨fun i hdecode hne => ?inner, fun r1 r2 hdecode => ?nested, fun arg hword => ?saa⟩
  case inner => exact (exec_exr_of_decode dr hsr hdecode).trans (exec_eq_executed hne s).symm
  case nested => exact .next (exec_exr_of_decode dr hsr hdecode) (setsRegisters_nestedExr s)
  case saa => exact .next (exec_exr_of_decode dr hsr (decodeWord_saa _ hword)) (setsRegisters_setCur s _)

end Sys2Proof.Proofs
end

section
/-! PROOFS. What an instruction without privilege cannot do (R461, R470, R471, R473). The privileged instructions check first, so
that where `PrivOK` is false none of them ends in a next state; of the others each is a chain of accesses that ends in updates of
its own level and of words that the page tables give for a write. -/

namespace Sys2Proof.Proofs

open Sys2Proof Sys2Proof.Machine

/-! ## The instruction whose rule runs (R260) -/

section Runs

variable {s t : State} {i j : Instr} {sr dr : RegField} {f : Fault}

theorem execExr_next (h : execExr sr dr s = .next t) :
    ∃ j, decodeWord s.params.opcodes (s.cur.operand sr) = .ok j ∧ executed j s = .next t := by
  unfold execExr at h
  split at h
  · cases h
  · split at h
    · cases h
    · next j hdecode => exact ⟨j, hdecode, h⟩

/-- A next state is that of the instruction whose rule runs. -/
theorem exists_runs_of_next (h : exec i s = .next t) : ∃ j, Runs s i j ∧ executed j s = .next t := by
  by_cases hexr : ∃ sr dr, i = .exr sr dr
  · obtain ⟨sr, dr, rfl⟩ := hexr
    obtain ⟨j, hdecode, hnext⟩ := execExr_next h
    exact ⟨j, .inr ⟨sr, dr, rfl, hdecode⟩, hnext⟩
  · exact ⟨i, .inl rfl, exec_eq_executed (fun sr dr hi => hexr ⟨sr, dr, hi⟩) s ▸ h⟩

end Runs

/-! ## The check of the privileged instructions (R461, R471) -/

section Privileged

variable {s t : State} {i : Instr}

/-- The privileged types of `MOVEW` are those with a physical end (R432). -/
theorem movew_privileged_iff (ty : BitVec 6) :
    (Instr.movew ty).privileged = true ↔ movewOk ty = true ∧ movePrivileged ty = true := by
  revert ty; decide

theorem checksPrivilege_movew {ty : BitVec 6} (h : (Instr.movew ty).privileged = true) (s : State) :
    ChecksPrivilege (.movew ty) s (moveBlock ty s) := by
  obtain ⟨hok, hpriv⟩ := (movew_privileged_iff ty).mp h
  have hexec : exec (.movew ty) s = execMovew ty s := rfl
  simp only [ChecksPrivilege, hexec, execMovew, hok, hpriv, Bool.not_true, Bool.false_eq_true, if_false, if_true]

/-- Each of R471 begins with the check; `LWCS`, which can be refused after it, is not a chain of accesses. -/
theorem checksPrivilege_of_privileged (h : i.privileged = true) (hlwcs : i ≠ .lwcs) (s : State) :
    ∃ x, ChecksPrivilege i s x := by
  cases i with
  | iox | ioxt | ident | iof | ion | opcom | pof | wait | piof | pion | pon | rex | sex => exact ⟨_, rfl⟩
  | tra | trr | mst | mcl | irr | irw | lrb | srb | depo | exam | rdus | tset => exact ⟨_, rfl⟩
  | ldatx | ldxtx | lddtx | ldbtx | statx | stztx | stdtx => exact ⟨_, rfl⟩
  | wglob | rglob | lbit | sbit | lbitp | sbitp | lbytp | sbytp | rdusp | tsetp => exact ⟨_, rfl⟩
  | setpt | clept | clepu | chreentpages | clnreent | clpt | cnrek | enpt | inspl | rempl | rept => exact ⟨_, rfl⟩
  | lasb | sasb | lacb | sacb | lxsb | lxcb | szsb | szcb => exact ⟨_, rfl⟩
  | movew ty => exact ⟨_, checksPrivilege_movew h s⟩
  | lwcs => exact absurd rfl hlwcs
  | _ => exact nomatch h

theorem exec_of_privileged (h : i.privileged = true) (hpriv : privOk s = false) :
    exec i s = .fault (.privilegeViolation (encode s.params.opcodes i)) := by
  by_cases hlwcs : i = .lwcs
  · subst hlwcs
    simp only [exec, execLwcs, requirePrivilege_error hpriv]
  · obtain ⟨x, hx⟩ := checksPrivilege_of_privileged h hlwcs s
    exact hx.violation hpriv

/-- Also where an `EXR` runs it. -/
theorem executed_of_privileged (h : i.privileged = true) (hpriv : privOk s = false) :
    executed i s = .fault (.privilegeViolation (encode s.params.opcodes i)) := by
  rw [← exec_eq_executed (fun sr dr hi => by subst hi; exact nomatch h), exec_of_privileged h hpriv]

end Privileged
/-! ## What a program can write (R60, R432, R473) -/

/-- A word that the page tables, the normal or the alternative one, give for a write. -/
def WritableWord (s : State) (pa : PhysAddr) : Prop :=
  ∃ addr, locate s addr .write = .ok pa ∨ paged s addr .write (translateAlt s addr .write) = .ok pa

/-- `m` differs from the memory of `s` in writable words only. -/
def WrittenByProgram (s : State) (m : Memory) : Prop :=
  ∀ k : Nat, m.readByte k ≠ s.mem.readByte k → ∃ pa, WritableWord s pa ∧ k / 2 = pa.toNat

/-- The registers of the current level and writable words are all that differs. -/
structure ProgramEffect (s t : State) : Prop where
  control : SameControl s t
  levels  : SameOtherLevels s t
  memory  : WrittenByProgram s t.mem

section Effects

variable {s t : State} {m : Memory} {pa : PhysAddr} {addr v : Word} {r : Regs}

theorem writableWord_of_locate (h : locate s addr .write = .ok pa) : WritableWord s pa := ⟨addr, .inl h⟩

theorem writtenByProgram_self (s : State) : WrittenByProgram s s.mem := fun _ hk => absurd rfl hk

theorem WrittenByProgram.writeWord (hm : WrittenByProgram s m) (hpa : WritableWord s pa) :
    WrittenByProgram s (m.writeWord pa v) := by
  intro k hk
  by_cases hword : k / 2 = pa.toNat
  · exact ⟨pa, hpa, hword⟩
  · refine hm k fun hsame => hk ?_
    rw [Memory.readByte_writeWord_ne (by constructor <;> omega), hsame]

@[simp] theorem programEffect_self (s : State) : ProgramEffect s s :=
  ⟨⟨rfl, rfl, rfl, rfl, rfl, rfl, rfl, rfl, rfl, rfl, rfl, rfl, rfl, rfl, rfl⟩, fun _ _ => rfl, writtenByProgram_self s⟩

@[simp] theorem programEffect_setCur (h : ProgramEffect s t) : ProgramEffect s (t.setCur r) := by
  obtain ⟨⟨pil, pid, pie, ioni, poni, sexi, pcr, iie, stbnk, stsrt, cmbnk, run, ioTrace, gaps, params⟩, levels, memory⟩ := h
  refine ⟨⟨pil, pid, pie, ioni, poni, sexi, pcr, iie, stbnk, stsrt, cmbnk, run, ioTrace, gaps, params⟩, fun n hn => ?_, memory⟩
  rw [State.setCur_lv_ne t n r (pil ▸ hn), levels n hn]

@[simp] theorem programEffect_advance (h : ProgramEffect s t) : ProgramEffect s t.advance := programEffect_setCur h

@[simp] theorem programEffect_drawn {n : Nat} (h : ProgramEffect s t) : ProgramEffect s (t.drawn n) := by
  obtain ⟨⟨pil, pid, pie, ioni, poni, sexi, pcr, iie, stbnk, stsrt, cmbnk, run, ioTrace, gaps, params⟩, levels, memory⟩ := h
  exact ⟨⟨pil, pid, pie, ioni, poni, sexi, pcr, iie, stbnk, stsrt, cmbnk, run, ioTrace, gaps, params⟩, levels, memory⟩

theorem ProgramEffect.withMemory (h : ProgramEffect s t) (hm : WrittenByProgram s m) :
    ProgramEffect s { t with mem := m } := by
  obtain ⟨⟨pil, pid, pie, ioni, poni, sexi, pcr, iie, stbnk, stsrt, cmbnk, run, ioTrace, gaps, params⟩, levels, -⟩ := h
  exact ⟨⟨pil, pid, pie, ioni, poni, sexi, pcr, iie, stbnk, stsrt, cmbnk, run, ioTrace, gaps, params⟩, levels, hm⟩

/-- A store at a translated address. -/
theorem ProgramEffect.store (h : ProgramEffect s t) (hpa : locate s addr .write = .ok pa) :
    ProgramEffect s (t.physWrite pa v) := h.withMemory (h.memory.writeWord (writableWord_of_locate hpa))

/-! ## Chains that compute a memory -/

/-- A computed memory put in place of the old one. -/
theorem ensures_replacedByProgram {x : Except Fault Memory} (ht : ProgramEffect s t) (hx : Ensures (WrittenByProgram s) x) :
    Ensures (ProgramEffect s) (do let mem ← x; return { t with mem := mem }) :=
  ensures_bind.mpr fun mem hmem => ensures_ok.mpr (ht.withMemory (hx mem hmem))

@[simp] theorem ensures_storeWord_program : Ensures (ProgramEffect s) (storeWord s addr v) := by
  intro t hstore
  obtain ⟨pa, hpa, rfl⟩ := storeWord_ok.mp hstore
  exact programEffect_advance ((programEffect_self s).store hpa)

theorem ensures_storeWords_program (l : List Word) : ∀ (ea : Word) (m : Memory), WrittenByProgram s m →
    Ensures (WrittenByProgram s) (storeWords s l ea m) := by
  induction l with
  | nil => exact fun _ _ hm => ensures_ok.mpr hm
  | cons v l ih =>
    exact fun ea m hm => ensures_bind.mpr fun pa hpa => ih (ea + 1) _ (hm.writeWord (writableWord_of_locate hpa))

theorem ensures_storeByteAt_program {right : Bool} {b : Byte} (hm : WrittenByProgram s m) :
    Ensures (WrittenByProgram s) (storeByteAt s m addr right b) := by
  simp only [storeByteAt, ensures_bind, pure_ok, ensures_ok]
  exact fun _ _ pw hpw => hm.writeWord (writableWord_of_locate hpw)

theorem ensures_decimalMemory_program (op : DecimalOp) (s : State) :
    Ensures (WrittenByProgram s) (decimalMemory op s) := by
  intro mem hmem k hk
  obtain ⟨addr, -, pa, hpa, hword⟩ := decimalMemory_changed hmem hk
  exact ⟨pa, writableWord_of_locate hpa, hword⟩

/-- A logical end of a block move, through either page table (R432). -/
theorem writableWord_of_locateEnd {e : BlockEnd} {hi lo : Word} {k : Nat} (he : e ≠ .physical)
    (h : locateEnd s e hi lo k .write = .ok pa) : WritableWord s pa := by
  cases e with
  | physical => exact absurd rfl he
  | pt => exact writableWord_of_locate h
  | apt =>
    simp only [locateEnd] at h
    split at h
    · exact ⟨_, .inr h⟩
    · exact writableWord_of_locate h

theorem ensures_moveWord_program {src dst : BlockEnd} {k : Nat} (hdst : dst ≠ .physical) (hm : WrittenByProgram s m) :
    Ensures (WrittenByProgram s) (moveWord s src dst k m) := by
  simp only [moveWord, ensures_bind, pure_ok, ensures_ok]
  exact fun _ _ to' hto => hm.writeWord (writableWord_of_locateEnd hdst hto)

theorem ensures_moveBlock_program {ty : BitVec 6} (hdst : Machine.moveDest ty ≠ .physical) :
    Ensures (ProgramEffect s) (moveBlock ty s) := by
  simp only [moveBlock]
  split
  · simp
  · exact ensures_replacedByProgram (by simp)
      (ensures_walk (fun _ _ => ensures_moveWord_program hdst) _ 0 s.mem (writtenByProgram_self s))

end Effects

/-! ## The instructions without privilege that write memory -/

section Storing

variable (s : State)

theorem std_programEffect (m : MemOperand) : EnsuresNext (ProgramEffect s) (execStd m s) := by
  simp only [execStd, ensuresNext_finish, ensures_bind, pure_ok, ensures_ok]
  intro _ _ _ hhigh _ hlow
  exact programEffect_advance (((programEffect_self s).store hhigh).store hlow)

theorem min_programEffect (m : MemOperand) : EnsuresNext (ProgramEffect s) (execMin m s) := by
  simp only [execMin, ensuresNext_finish, ensures_bind, pure_ok, ensures_ok]
  intro _ _ _ _ _ hword
  exact programEffect_setCur ((programEffect_self s).store hword)

theorem stf_programEffect (m : MemOperand) : EnsuresNext (ProgramEffect s) (execStf m s) :=
  ensuresNext_finish.mpr <| ensures_bind.mpr fun _ _ => ensures_replacedByProgram (by simp)
    (ensures_storeWords_program _ _ _ (writtenByProgram_self s))

theorem entr_programEffect : EnsuresNext (ProgramEffect s) (execEntr s) := by
  simp only [execEntr, ensuresNext_finish, ensures_bind, pure_ok, ensures_ok]
  intro _ _ _ _ _ _ _ hprevb _ hsmax _ hlink _ hstp
  exact programEffect_setCur (((((programEffect_self s).store hprevb).store hsmax).store hlink).store hstp)

theorem init_programEffect : EnsuresNext (ProgramEffect s) (execInit s) := by
  unfold execInit
  split
  · simp only [initStack, ensuresNext_finish, ensures_bind, pure_ok, ensures_ok]
    intro _ _ _ _ _ _ _ _ _ hlink _ hprevb _ hsmax _ hstp
    exact programEffect_setCur (((((programEffect_self s).store hlink).store hprevb).store hsmax).store hstp)
  · exact ensuresNext_refused

theorem eleav_programEffect : EnsuresNext (ProgramEffect s) (execEleav s) := by
  simp only [execEleav, ensuresNext_finish, ensures_bind, pure_ok, ensures_ok]
  intro _ _ _ _ _ hlink _ hcode
  exact programEffect_setCur (((programEffect_self s).store hlink).store hcode)

theorem sbyt_programEffect : EnsuresNext (ProgramEffect s) (execSbyt s) :=
  ensuresNext_finish.mpr <| ensures_replacedByProgram (by simp)
    (ensures_storeByteAt_program (writtenByProgram_self s))

theorem bfill_programEffect : EnsuresNext (ProgramEffect s) (execBfill s) :=
  ensuresNext_finish.mpr <| ensures_replacedByProgram (by simp)
    (ensures_walk (fun _ _ => ensures_storeByteAt_program) _ 0 s.mem (writtenByProgram_self s))

theorem movb_programEffect : EnsuresNext (ProgramEffect s) (execMovb s) :=
  ensuresNext_finish.mpr <| ensures_bind.mpr fun _ _ => ensures_replacedByProgram (by simp)
    (ensures_walk (fun _ _ => ensures_storeByteAt_program) _ 0 s.mem (writtenByProgram_self s))

theorem movbf_programEffect : EnsuresNext (ProgramEffect s) (execMovbf s) :=
  ensuresNext_finish.mpr <| ensures_replacedByProgram (by simp)
    (ensures_walk (fun _ _ hm => ensures_bind.mpr fun _ _ => ensures_storeByteAt_program hm) _ 0 s.mem
      (writtenByProgram_self s))

theorem decimal_programEffect (op : DecimalOp) : EnsuresNext (ProgramEffect s) (exec (decimalInstr op) s) := by
  rw [replacesMemory_decimal op s]
  exact ensuresNext_finish.mpr (ensures_replacedByProgram (by simp) (ensures_decimalMemory_program op s))

/-- Without a physical end a word is written where a page table says. -/
theorem movew_programEffect {ty : BitVec 6} (h : (Instr.movew ty).privileged = false) :
    EnsuresNext (ProgramEffect s) (execMovew ty s) := by
  have hends : movewOk ty = true → movePrivileged ty = false := fun hok => by
    by_contra hpriv
    rw [(movew_privileged_iff ty).mpr ⟨hok, (Bool.not_eq_false _).mp hpriv⟩] at h
    cases h
  simp only [execMovew, ensuresNext_finish]
  split
  · exact ensures_error
  · next hok =>
    have hlogical := hends (by simpa using hok)
    simp only [hlogical]
    refine ensures_moveBlock_program fun hdst => ?_
    simp [movePrivileged, hdst] at hlogical

end Storing

/-! ## Every instruction without privilege -/

theorem addRegs_programEffect (adc ad1 cm1 cld : Bool) (sr dr : RegField) (s : State) :
    ProgramEffect s (addRegs adc ad1 cm1 cld sr dr s) := by
  unfold addRegs
  split <;> simp

/-- The instructions that write no memory come first, then those that store. -/
theorem executed_programEffect {i : Instr} (hi : i.privileged = false) (hmon : ∀ n, i ≠ .mon n) (s : State) :
    EnsuresNext (ProgramEffect s) (executed i s) := by
  cases i
  case saa | sab | sat | sax | aaa | aab | aat | aax =>
    simp [executed, execSaa, execSab, execSat, execSax, execAaa, execAab, execAat, execAax]
  case add | sub | and | ora | mpy => simp [executed, execAdd, execSub, execAnd, execOra, execMpy]
  case bsetZro | bsetOne | bsetBcm | bsetBac => simp [executed, execBsetZro, execBsetOne, execBsetBcm, execBsetBac]
  case bskpZro | bskpOne | bskpBcm | bskpBac => simp [executed, execBskpZro, execBskpOne, execBskpBcm, execBskpBac]
  case bstc | bsta | bldc | blda => simp [executed, execBstc, execBsta, execBldc, execBlda]
  case banc | band | borc | bora => simp [executed, execBanc, execBand, execBorc, execBora]
  case lbyt => simp [executed, execLbyt]
  case ldf | fad | fsb | fmu | fdv => simp [executed, execLdf, execFad, execFsb, execFmu, execFdv, floatResult]
  case nlz | dnz =>
    simp only [executed, execNlz, execDnz]
    split <;> simp
  case iot => exact ensuresNext_fault
  case jap | jan | jaz | jaf | jxz | jxn | jpc | jnc =>
    simp [executed, execJap, execJan, execJaz, execJaf, execJxz, execJxn, execJpc, execJnc]
  case jmp | jpl => simp [executed, execJmp, execJpl]
  case radd | copy | rsub | rinc | rdcr | rclr | exit =>
    exact ensuresNext_next.mpr (addRegs_programEffect _ _ _ _ _ _ s)
  case rand | rexo | rora | swap => simp [executed, execRand, execRexo, execRora, execSwap, logicRegs]
  case rdiv =>
    simp only [executed, execRdiv]
    split <;> simp
  case rmpy | mix3 => simp [executed, execRmpy, execMix3]
  case sht | shd | sha | sad => simp [executed, execSht, execShd, execSha, execSad]
  case skp | leave => simp [executed, execSkp, execLeave]
  case versn =>
    simp only [executed, execVersn]
    split <;> simp
  case geco => exact ensuresNext_refused
  case ldd | lda | ldt | ldx => simp [executed, execLdd, execLda, execLdt, execLdx]
  case exr => simp [executed, nestedExr]
  case sta | stt | stx | stz => simp [executed, execSta, execStt, execStx, execStz]
  case std m => exact std_programEffect s m
  case stf m => exact stf_programEffect s m
  case min m => exact min_programEffect s m
  case entr => exact entr_programEffect s
  case init => exact init_programEffect s
  case eleav => exact eleav_programEffect s
  case sbyt => exact sbyt_programEffect s
  case bfill => exact bfill_programEffect s
  case movb => exact movb_programEffect s
  case movbf => exact movbf_programEffect s
  case movew ty => exact movew_programEffect s hi
  case addd => exact decimal_programEffect s .addd
  case subd => exact decimal_programEffect s .subd
  case comd => exact decimal_programEffect s .comd
  case pack => exact decimal_programEffect s .pack
  case upack => exact decimal_programEffect s .upack
  case shde => exact decimal_programEffect s .shde
  case mon n => exact absurd rfl (hmon n)
  all_goals exact nomatch hi

/-! ## MON (R326) -/

/-- The state after `MON`: the number in T of level 14, the request in PID. -/
def monState (n : Byte) (s : State) : State :=
  { s.advance.setLv 14 { s.advance.lv 14 with t := sext8 n } with pid := s.pid ||| 0o40000#16 }

theorem exec_mon (n : Byte) (s : State) : exec (.mon n) s = .next (monState n s) := rfl

theorem monState_lv (n : Byte) (s : State) : (monState n s).lv 14 = { s.advance.lv 14 with t := sext8 n } :=
  State.setLv_lv_same s.advance 14 _

theorem monState_lv_ne {k : Level} (n : Byte) (s : State) (h14 : k ≠ 14) (hpil : k ≠ s.pil) :
    (monState n s).lv k = s.lv k :=
  (State.setLv_lv_ne s.advance 14 k _ h14).trans (s.advance_lv_ne k hpil)

theorem monState_lv_of_ne (n : Byte) (s : State) (h : s.pil ≠ 14) :
    (monState n s).lv 14 = { s.lv 14 with t := sext8 n } := by
  rw [monState_lv, s.advance_lv_ne 14 h.symm]

theorem monState_control (n : Byte) (s : State) : SameControl { s with pid := s.pid ||| 0o40000#16 } (monState n s) :=
  ⟨rfl, rfl, rfl, rfl, rfl, rfl, rfl, rfl, rfl, rfl, rfl, rfl, rfl, rfl, rfl⟩

/-- Settles O12: the instruction whose rule runs has no privilege, and is `MON` or stays within the effect of a program. -/
theorem userModeIsolation : Obligations.UserModeIsolation := by
  unfold Obligations.UserModeIsolation
  intro i s t hprotected hexec
  obtain ⟨j, hruns, hnext⟩ := exists_runs_of_next hexec
  have hj : j.privileged = false := by
    rcases hprotected with hpriv | hnone
    · by_contra hj
      rw [executed_of_privileged ((Bool.not_eq_false _).mp hj) hpriv] at hnext
      cases hnext
    · exact hnone j hruns
  by_cases hmon : ∃ n, j = .mon n
  · obtain ⟨n, rfl⟩ := hmon
    obtain rfl : monState n s = t := Host.Outcome.next.inj hnext
    refine ⟨monState_control n s, fun k hpil h14 => monState_lv_ne n s h14 hpil, fun h => ?_, .inr rfl,
      fun k hk => absurd rfl hk⟩
    rw [monState_lv_of_ne n s h]
  · obtain ⟨hcontrol, hlevels, hmemory⟩ := executed_programEffect hj (fun n hn => hmon ⟨n, hn⟩) s t hnext
    obtain ⟨pil, pid, pie, ioni, poni, sexi, pcr, iie, stbnk, stsrt, cmbnk, run, ioTrace, gaps, params⟩ := hcontrol
    refine ⟨⟨pil, rfl, pie, ioni, poni, sexi, pcr, iie, stbnk, stsrt, cmbnk, run, ioTrace, gaps, params⟩,
      fun n hn _ => hlevels n hn, fun h => ?_, .inl pid, fun k hk => ?_⟩
    · rw [hlevels 14 h.symm]
    · obtain ⟨pa, ⟨addr, haddr⟩, hword⟩ := hmemory k hk
      exact ⟨addr, pa, haddr, hword⟩

end Sys2Proof.Proofs
end

section
/-! PROOFS. Exactly the instructions of R471 fault for want of privilege (R461, R470). Of the faults an instruction can end in only
that of the check names a violation: one rule for each check and access, then every instruction by them. -/

namespace Sys2Proof.Proofs

open Sys2Proof Sys2Proof.Machine

/-- A computation that does not end in a privilege violation. -/
def NeverViolates {α : Type} (x : Except Fault α) : Prop := ∀ w, x ≠ .error (.privilegeViolation w)

/-- An outcome that is no privilege violation. -/
def NoViolation (o : Host.Outcome State Fault Refusal) : Prop := ∀ w, o ≠ .fault (.privilegeViolation w)

section Chains

variable {α β : Type} {x : Except Fault α} {g : α → Except Fault β} {a : α} {s t : State} {f : Fault} {r : Refusal}

@[simp] theorem neverViolates_ok : NeverViolates (.ok a) := fun _ => nofun

@[simp] theorem neverViolates_error : NeverViolates (.error f : Except Fault α) ↔ ∀ w, f ≠ .privilegeViolation w := by
  simp [NeverViolates]

@[simp] theorem neverViolates_bind :
    NeverViolates (x >>= g) ↔ NeverViolates x ∧ ∀ a, x = .ok a → NeverViolates (g a) := by
  cases x <;> simp [NeverViolates]

@[simp] theorem noViolation_next : NoViolation (.next t) := fun _ => nofun

@[simp] theorem noViolation_refused : NoViolation (.refused r) := fun _ => nofun

@[simp] theorem noViolation_fault : NoViolation (.fault f) ↔ ∀ w, f ≠ .privilegeViolation w := by
  simp [NoViolation]

@[simp] theorem noViolation_finish {y : Except Fault State} : NoViolation (finish y) ↔ NeverViolates y := by
  cases y <;> simp

theorem neverViolates_of_translationFault (h : ∀ f, x = .error f → IsTranslationFault f) : NeverViolates x := by
  intro w hw
  obtain ⟨pa, kind, hf⟩ := h _ hw
  cases hf

/-! ## Checks -/

theorem neverViolates_requirePrivilege {i : Instr} (h : privOk s = true) : NeverViolates (requirePrivilege s i) := by
  rw [requirePrivilege_of_ok h]
  exact neverViolates_ok

@[simp] theorem neverViolates_requireOperand {i : Instr} {why : Reserved} {ok : Bool} :
    NeverViolates (requireOperand s i why ok) := by
  cases ok <;> simp [requireOperand]

@[simp] theorem neverViolates_requireBit {i : Instr} {bn : BitVec 4} {dr : RegField} :
    NeverViolates (requireBit s i bn dr) := neverViolates_requireOperand

/-! ## Accesses -/

variable {pa : PhysAddr} {addr v : Word} {kind : Access} {m : MemOperand} {mem : Memory}

@[simp] theorem neverViolates_installed : NeverViolates (installed s pa) :=
  neverViolates_of_translationFault fun _ => isTranslationFault_of_installed

@[simp] theorem neverViolates_paged {o : Option PhysAddr} : NeverViolates (paged s addr kind o) :=
  neverViolates_of_translationFault fun _ => isTranslationFault_of_paged

@[simp] theorem neverViolates_locate : NeverViolates (locate s addr kind) :=
  neverViolates_of_translationFault fun _ => isTranslationFault_of_locate

@[simp] theorem neverViolates_memRead : NeverViolates (memRead s addr) :=
  neverViolates_of_translationFault fun _ => isTranslationFault_of_memRead

@[simp] theorem neverViolates_memOperand : NeverViolates (memOperand s m) :=
  neverViolates_of_translationFault fun _ => isTranslationFault_of_memOperand

@[simp] theorem neverViolates_effAddr : NeverViolates (effAddr s m) :=
  neverViolates_of_translationFault fun _ hf => isTranslationFault_of_memRead (effAddr_error hf).2

@[simp] theorem neverViolates_physLoad : NeverViolates (physLoad s pa) := by simp [physLoad]

@[simp] theorem neverViolates_physStore : NeverViolates (physStore s pa v) := by simp [physStore]

@[simp] theorem neverViolates_storeWord : NeverViolates (storeWord s addr v) := by simp [storeWord]

@[simp] theorem neverViolates_storeByteAt {right : Bool} {b : Byte} : NeverViolates (storeByteAt s mem addr right b) := by
  simp [storeByteAt]

@[simp] theorem neverViolates_loadByteAt {k : Nat} : NeverViolates (loadByteAt s mem k) := by simp [loadByteAt]

@[simp] theorem neverViolates_floatOperand : NeverViolates (floatOperand s m) := by
  simp only [floatOperand, neverViolates_bind, neverViolates_effAddr, true_and]
  intro _ _
  split <;> simp

@[simp] theorem neverViolates_readBlock : NeverViolates (readBlock s addr) := by simp [readBlock]

@[simp] theorem neverViolates_locateEnd {e : BlockEnd} {hi lo : Word} {k : Nat} :
    NeverViolates (locateEnd s e hi lo k kind) := by
  cases e <;> simp only [locateEnd]
  case pt => exact neverViolates_locate
  case apt => split <;> simp
  case physical => exact neverViolates_installed

@[simp] theorem neverViolates_moveWord {src dst : BlockEnd} {k : Nat} : NeverViolates (moveWord s src dst k mem) := by
  simp [moveWord]

/-! ## Walks and loops -/

theorem neverViolates_walk {write : Nat → Memory → Except Fault Memory} (h : ∀ k mem, NeverViolates (write k mem)) (n : Nat) :
    ∀ k mem, NeverViolates (walk write n k mem) := by
  induction n with
  | zero => exact fun _ _ => neverViolates_ok
  | succ n ih => exact fun k mem => neverViolates_bind.mpr ⟨h k mem, fun mem' _ => ih (k + 1) mem'⟩

theorem neverViolates_readBytes (n : Nat) : ∀ k, NeverViolates (readBytes s mem n k) := by
  induction n with
  | zero => exact fun _ => neverViolates_ok
  | succ n ih => intro k; simp [readBytes, ih]

theorem neverViolates_storeWords (l : List Word) : ∀ addr mem, NeverViolates (storeWords s l addr mem) := by
  induction l with
  | nil => exact fun _ _ => neverViolates_ok
  | cons v l ih => intro addr mem; simp [storeWords, ih]

@[simp] theorem neverViolates_decimalMemory {op : DecimalOp} : NeverViolates (decimalMemory op s) :=
  neverViolates_of_translationFault fun _ hf =>
    have ⟨_, _, hlocate⟩ := decimalMemory_error hf
    isTranslationFault_of_locate hlocate

theorem neverViolates_runSintran {op : SintranOp} {i : Instr} (h : privOk s = true) :
    NeverViolates (runSintran op i s) := by
  rcases runSintran_contract op i h with ⟨t, hrun, -⟩ | ⟨f, hrun, pa, kind, rfl⟩ <;> simp [hrun]

theorem neverViolates_loopUntilXZero {once : State → Except Fault State} (honce : ∀ s, NeverViolates (once s)) (n : Nat) :
    ∀ s, NeverViolates (loopUntilXZero once n s) := by
  induction n with
  | zero =>
    intro s
    simp only [loopUntilXZero]
    split <;> simp
  | succ n ih =>
    intro s
    simp only [loopUntilXZero]
    split
    · exact neverViolates_ok
    · exact neverViolates_bind.mpr ⟨honce s, fun s' _ => ih s'⟩

theorem neverViolates_setptOnce (s : State) : NeverViolates (setptOnce s) := by simp [setptOnce]

theorem neverViolates_cleptOnce (s : State) : NeverViolates (cleptOnce s) := by
  simp only [cleptOnce, neverViolates_bind, neverViolates_physLoad, neverViolates_memRead, true_and]
  intro _ _ _ _
  split <;> simp

theorem neverViolates_moveBlock (ty : BitVec 6) (s : State) : NeverViolates (moveBlock ty s) := by
  simp only [moveBlock]
  split
  · exact neverViolates_ok
  · simp [neverViolates_walk]

end Chains

/-! ## Every instruction -/

section Instructions

variable {s : State}

theorem noViolation_decimal (op : DecimalOp) (s : State) : NoViolation (exec (decimalInstr op) s) := by
  rw [replacesMemory_decimal op s]
  simp

/-- The check of `MOVEW` stands behind its types with a physical end. -/
theorem noViolation_execMovew {ty : BitVec 6} (h : privOk s = true ∨ (Instr.movew ty).privileged = false) :
    NoViolation (execMovew ty s) := by
  simp only [execMovew, noViolation_finish]
  split
  · exact neverViolates_error.mpr fun _ => nofun
  · next hok =>
    split
    · next hphysical =>
      have hpriv : privOk s = true := h.resolve_right fun hnot => by
        rw [(movew_privileged_iff ty).mpr ⟨by simpa using hok, hphysical⟩] at hnot
        cases hnot
      exact neverViolates_bind.mpr ⟨neverViolates_requirePrivilege hpriv, fun _ _ => neverViolates_moveBlock ty s⟩
    · exact neverViolates_moveBlock ty s

theorem noViolation_execLwcs (h : privOk s = true) : NoViolation (execLwcs s) := by
  rw [execLwcs, requirePrivilege_of_ok h]
  cases s.params.cpuModel <;> simp

/-- The privileged instructions come first, in the order of R471, then the others. -/
theorem noViolation_executed {i : Instr} (h : privOk s = true ∨ i.privileged = false) : NoViolation (executed i s) := by
  have hchecked (hi : i.privileged = true) : ∀ j, NeverViolates (requirePrivilege s j) := fun _ =>
    neverViolates_requirePrivilege (h.resolve_right fun hnot => by rw [hi] at hnot; cases hnot)
  cases i
  case iox | ioxt | ident => simp [executed, execIox, execIoxt, execIdent, hchecked rfl]
  case iof | ion | pof | piof | pion | pon | rex | sex =>
    simp [executed, execIof, execIon, execPof, execPiof, execPion, execPon, execRex, execSex, hchecked rfl]
  case opcom | wait => simp [executed, execOpcom, execWait, hchecked rfl]
  case tra | trr | mst | mcl => simp [executed, execTra, execTrr, execMst, execMcl, hchecked rfl]
  case irr | irw | lrb => simp [executed, execIrr, execIrw, execLrb, hchecked rfl]
  case srb => simp [executed, execSrb, neverViolates_storeWords, hchecked rfl]
  case depo | exam | rdus | tset => simp [executed, execDepo, execExam, execRdus, execTset, hchecked rfl]
  case ldatx | ldxtx | lddtx | ldbtx => simp [executed, execLdatx, execLdxtx, execLddtx, execLdbtx, hchecked rfl]
  case statx | stztx | stdtx => simp [executed, execStatx, execStztx, execStdtx, hchecked rfl]
  case lwcs => exact noViolation_execLwcs (h.resolve_right nofun)
  case wglob | rglob => simp [executed, execWglob, execRglob, hchecked rfl]
  case lbit | sbit | lbitp | sbitp => simp [executed, execLbit, execSbit, execLbitp, execSbitp, hchecked rfl]
  case lbytp | sbytp | rdusp | tsetp => simp [executed, execLbytp, execSbytp, execRdusp, execTsetp, hchecked rfl]
  case setpt =>
    simp [executed, execSetpt, neverViolates_loopUntilXZero neverViolates_setptOnce, hchecked rfl]
  case clept =>
    simp [executed, execClept, neverViolates_loopUntilXZero neverViolates_cleptOnce, hchecked rfl]
  case clepu | chreentpages | clnreent | clpt | cnrek | enpt | inspl | rempl | rept =>
    exact noViolation_finish.mpr (neverViolates_runSintran (h.resolve_right nofun))
  case lasb | lacb | lxsb | lxcb => simp [executed, execLasb, execLacb, execLxsb, execLxcb, hchecked rfl]
  case sasb | sacb | szsb | szcb => simp [executed, execSasb, execSacb, execSzsb, execSzcb, hchecked rfl]
  case movew ty => exact noViolation_execMovew h
  case saa | sab | sat | sax | aaa | aab | aat | aax => exact noViolation_next
  case add | sub | and | ora | mpy => simp [executed, execAdd, execSub, execAnd, execOra, execMpy]
  case bsetZro | bsetOne | bsetBcm | bsetBac => simp [executed, execBsetZro, execBsetOne, execBsetBcm, execBsetBac]
  case bskpZro | bskpOne | bskpBcm | bskpBac => simp [executed, execBskpZro, execBskpOne, execBskpBcm, execBskpBac]
  case bstc | bsta | bldc | blda => simp [executed, execBstc, execBsta, execBldc, execBlda]
  case banc | band | borc | bora => simp [executed, execBanc, execBand, execBorc, execBora]
  case lbyt | sbyt => simp [executed, execLbyt, execSbyt]
  case bfill | movb | movbf =>
    simp [executed, execBfill, execMovb, execMovbf, fillBytes, writeBytes, copyForward, storeByteIndex, neverViolates_walk,
      neverViolates_readBytes]
  case addd => exact noViolation_decimal .addd s
  case subd => exact noViolation_decimal .subd s
  case comd => exact noViolation_decimal .comd s
  case pack => exact noViolation_decimal .pack s
  case upack => exact noViolation_decimal .upack s
  case shde => exact noViolation_decimal .shde s
  case ldf | fad | fsb | fmu | fdv => simp [executed, execLdf, execFad, execFsb, execFmu, execFdv]
  case stf => simp [executed, execStf, neverViolates_storeWords]
  case nlz | dnz =>
    simp only [executed, execNlz, execDnz]
    split <;> exact noViolation_next
  case iot => exact noViolation_fault.mpr fun _ => nofun
  case jap | jan | jaz | jaf | jxz | jxn | jpc | jnc => exact noViolation_next
  case jmp | jpl => simp [executed, execJmp, execJpl]
  case radd | copy | rsub | rinc | rdcr | rclr | exit => exact noViolation_next
  case rand | rexo | rora | swap => exact noViolation_next
  case rdiv =>
    simp only [executed, execRdiv]
    split <;> exact noViolation_next
  case rmpy | mix3 | sht | shd | sha | sad | skp | mon | exr => exact noViolation_next
  case versn =>
    simp only [executed, execVersn]
    split <;> simp
  case geco => exact noViolation_refused
  case entr | leave | eleav => simp [executed, execEntr, execLeave, execEleav]
  case init =>
    simp only [executed, execInit]
    split <;> simp [initStack]
  case ldd | lda | ldt | ldx => simp [executed, execLdd, execLda, execLdt, execLdx]
  case std | min | sta | stt | stx | stz => simp [executed, execStd, execMin, execSta, execStt, execStx, execStz]

theorem noViolation_execExr {sr dr : RegField}
    (h : privOk s = true ∨ ∀ j, Runs s (.exr sr dr) j → j.privileged = false) : NoViolation (execExr sr dr s) := by
  unfold execExr
  split
  · next f hoperand =>
    refine noViolation_fault.mpr fun w hf => ?_
    exact neverViolates_requireOperand w (hf ▸ hoperand)
  · split
    · exact noViolation_fault.mpr fun _ => nofun
    · next j hdecode => exact noViolation_executed (h.imp_right fun hnone => hnone j (.inr ⟨sr, dr, rfl, hdecode⟩))

theorem noViolation_exec {i : Instr} (h : privOk s = true ∨ ∀ j, Runs s i j → j.privileged = false) :
    NoViolation (exec i s) := by
  by_cases hexr : ∃ sr dr, i = .exr sr dr
  · obtain ⟨sr, dr, rfl⟩ := hexr
    exact noViolation_execExr h
  · rw [exec_eq_executed fun sr dr hi => hexr ⟨sr, dr, hi⟩]
    exact noViolation_executed (h.imp_right fun hnone => hnone i (.inl rfl))

end Instructions

/-- Settles O13: the check of each privileged instruction, and no other source of the fault. -/
theorem privilegedInstructionsNeedPrivilege : Obligations.PrivilegedInstructionsNeedPrivilege := by
  unfold Obligations.PrivilegedInstructionsNeedPrivilege
  intro s
  refine ⟨fun i hi => ?checked, fun i w h => noViolation_exec h w, privOk_of_off⟩
  cases hpriv : privOk s with
  | true => exact .inl rfl
  | false => exact .inr (exec_of_privileged hi hpriv)

end Sys2Proof.Proofs
end

section
/-! PROOFS. Interrupts: the level change (R446, R447), the host's events between steps (R451, R492), and the ways in which PID and
PIE change (R443). -/

namespace Sys2Proof.Proofs

open Sys2Proof Sys2Proof.Machine

/-! ## The level change (R446, decision D14) -/

section LevelChange

variable {s : State} {n : Level}

theorem levelChange_pil_of_on (h : s.ioni = true) : (levelChange s).pil = highestBelow (s.pid &&& s.pie) 16 := by
  simp only [levelChange, h, if_true, highestRequest]

/-- A level requests, in the conjunction of PID and PIE, where both its bits are set. -/
theorem request_iff :
    (s.pid &&& s.pie).getLsbD n.toNat = true ↔ s.pid.getLsbD n.toNat = true ∧ s.pie.getLsbD n.toNat = true := by
  rw [BitVec.getLsbD_and, Bool.and_eq_true]

theorem le_levelChange_pil (h : s.ioni = true) (hpid : s.pid.getLsbD n.toNat = true)
    (hpie : s.pie.getLsbD n.toNat = true) : n ≤ (levelChange s).pil := by
  obtain ⟨hmax, -⟩ := highestBelow_spec (s.pid &&& s.pie) 16 (le_refl 16)
  rw [levelChange_pil_of_on h, BitVec.le_def]
  exact hmax n.toNat n.isLt (request_iff.mpr ⟨hpid, hpie⟩)

theorem levelChange_pil_requests (h : s.ioni = true) :
    (s.pid.getLsbD (levelChange s).pil.toNat = true ∧ s.pie.getLsbD (levelChange s).pil.toNat = true) ∨
      ((levelChange s).pil = 0 ∧ ∀ n : Level, ¬(s.pid.getLsbD n.toNat = true ∧ s.pie.getLsbD n.toNat = true)) := by
  obtain ⟨-, hselects⟩ := highestBelow_spec (s.pid &&& s.pie) 16 (le_refl 16)
  rw [levelChange_pil_of_on h]
  refine hselects.imp (fun ⟨_, hset⟩ => request_iff.mp hset) fun ⟨hzero, hnone⟩ => ⟨hzero, fun n hn => ?_⟩
  exact Bool.eq_false_iff.mp (hnone n.toNat n.isLt) (request_iff.mpr hn)

end LevelChange

/-- Settles O6. -/
theorem levelChangeSelectsHighest : Obligations.LevelChangeSelectsHighest := fun s =>
  ⟨levelChange_of_ioni_off, fun hon =>
    ⟨levelChange_eq s, fun _ => le_levelChange_pil hon, levelChange_pil_requests hon⟩⟩

/-! ## The host's events (R451, R492, logs 9 and 32) -/

section HostEvents

variable {s : State} {n : Level} {pa : PhysAddr} {v : Word}

theorem applyHostEvent_interrupt (hn : externalLevel n = true) :
    applyHostEvent s (.interrupt n) = { s with pid := s.pid ||| (1#16 <<< n.toNat) } := by
  rw [applyHostEvent, if_pos hn]
  rfl

theorem applyHostEvent_memWrite (hpa : pa.toNat < s.params.physWords) :
    applyHostEvent s (.memWrite pa v) = s.physWrite pa v := by
  rw [applyHostEvent, State.physWriteIfInstalled, if_pos hpa]

theorem applyGap_of_cons {es : List HostEvent} {rest : List (List HostEvent)} (h : s.gaps = es :: rest) :
    applyGap s = es.foldl applyHostEvent { s with gaps := rest } := by
  rw [applyGap, h]
  rfl

theorem applyGap_of_nil (h : s.gaps = []) : applyGap s = s := by
  have hgaps : { s with gaps := [] } = s := by rw [← h]
  rw [applyGap, h]
  exact hgaps

end HostEvents

/-- Settles O7: the two events, then a schedule with a next gap and one without. -/
theorem hostEventsBetweenSteps : Obligations.HostEventsBetweenSteps := by
  unfold Obligations.HostEventsBetweenSteps
  intro s
  refine ⟨?interrupt, fun pa v hwf hpa => ?memWrite, fun es rest hgaps => ?gap, fun hgaps => ?quiet⟩
  case interrupt =>
    simp only [List.forall_mem_cons]
    exact ⟨applyHostEvent_interrupt rfl, applyHostEvent_interrupt rfl, applyHostEvent_interrupt rfl,
      applyHostEvent_interrupt rfl, applyHostEvent_interrupt rfl, List.forall_mem_nil _⟩
  case memWrite => exact ⟨_, applyHostEvent_memWrite hpa, rfl, storesInto_of_mem hwf rfl⟩
  case gap => rw [beginStep, applyGap_of_cons hgaps]
  case quiet => rw [beginStep, applyGap_of_nil hgaps]

/-! ## PID and PIE (R443) -/

/-- PID and PIE are as the instruction `j` leaves them. -/
def RequestsAfter (s : State) (j : Instr) (t : State) : Prop := t.pid = pidAfter s j ∧ t.pie = pieAfter s j

/-- PID and PIE are those of `s`. -/
def SameRequests (s t : State) : Prop := t.pid = s.pid ∧ t.pie = s.pie

section Requests

variable {s t : State} {i : Instr} {n : BitVec 4}

@[simp] theorem sameRequests_self : SameRequests s s := ⟨rfl, rfl⟩

@[simp] theorem sameRequests_setLv {k : Level} {r : Regs} : SameRequests s (t.setLv k r) ↔ SameRequests s t := Iff.rfl

@[simp] theorem sameRequests_setCur {r : Regs} : SameRequests s (t.setCur r) ↔ SameRequests s t := Iff.rfl

@[simp] theorem sameRequests_advance : SameRequests s t.advance ↔ SameRequests s t := Iff.rfl

@[simp] theorem sameRequests_drawn {k : Nat} : SameRequests s (t.drawn k) ↔ SameRequests s t := Iff.rfl

@[simp] theorem sameRequests_physWrite {pa : PhysAddr} {v : Word} : SameRequests s (t.physWrite pa v) ↔ SameRequests s t :=
  Iff.rfl

/-- For the updates written as records: any other field may differ. -/
@[simp] theorem sameRequests_mk {regs : Vector Regs 16} {pil : Level} {pid pie pcr iie stbnk stsrt cmbnk : Word}
    {ioni poni sexi : Bool} {mem : Memory} {run : Run} {ioTrace : List IoEvent} {gaps : List (List HostEvent)}
    {draws : Nat} {params : Params} :
    SameRequests s ⟨regs, pil, pid, pie, ioni, poni, sexi, pcr, iie, stbnk, stsrt, cmbnk, mem, run, ioTrace, gaps, draws,
      params⟩ ↔ pid = s.pid ∧ pie = s.pie := Iff.rfl

theorem sameRequests_exchange (s : State) (dev : Word) : SameRequests s (exchange s dev) := by
  unfold exchange
  split <;> exact ⟨rfl, rfl⟩

@[simp] theorem ensures_physStore_sameRequests {pa : PhysAddr} {v : Word} (h : SameRequests s t) :
    Ensures (SameRequests s) (physStore t pa v) := by
  intro u hstore
  obtain ⟨-, rfl⟩ := physStore_ok.mp hstore
  exact h

@[simp] theorem ensures_storeWord_sameRequests {addr v : Word} : Ensures (SameRequests s) (storeWord s addr v) := by
  intro u hstore
  obtain ⟨pa, -, rfl⟩ := storeWord_ok.mp hstore
  exact ⟨rfl, rfl⟩

theorem ensures_runSintran_sameRequests (op : SintranOp) (i : Instr) (s : State) :
    Ensures (SameRequests s) (runSintran op i s) := by
  simp only [runSintran, ensures_bind]
  intro _ _ _ _ t hwrites
  obtain ⟨-, rfl⟩ := sintranWrites_ok _ hwrites
  exact ⟨rfl, rfl⟩

/-- A pass of either loop, begun anywhere in it. -/
theorem ensures_setptOnce_sameRequests (h : SameRequests s t) : Ensures (SameRequests s) (setptOnce t) := by
  simp [setptOnce, h]

theorem ensures_cleptOnce_sameRequests (h : SameRequests s t) : Ensures (SameRequests s) (cleptOnce t) := by
  simp only [cleptOnce, ensures_bind]
  intro w _ a _
  split
  · simp [h]
  · simp [physStore_ok, h]

theorem ensuresNext_execSetpt_sameRequests (s : State) : EnsuresNext (SameRequests s) (execSetpt s) := by
  simp only [execSetpt, ensuresNext_finish, ensures_bind, pure_ok, ensures_ok, sameRequests_advance]
  exact fun _ _ => ensures_loopUntilXZero (fun _ => ensures_setptOnce_sameRequests) loopBound s sameRequests_self

theorem ensuresNext_execClept_sameRequests (s : State) : EnsuresNext (SameRequests s) (execClept s) := by
  simp only [execClept, ensuresNext_finish, ensures_bind, pure_ok, ensures_ok, sameRequests_advance]
  exact fun _ _ => ensures_loopUntilXZero (fun _ => ensures_cleptOnce_sameRequests) loopBound s sameRequests_self

theorem ensuresNext_execMovew_sameRequests (ty : BitVec 6) (s : State) :
    EnsuresNext (SameRequests s) (execMovew ty s) := by
  have hblock : Ensures (SameRequests s) (moveBlock ty s) := by
    simp only [moveBlock]
    split <;> simp
  simp only [execMovew, ensuresNext_finish]
  split
  · exact ensures_error
  · split
    · exact ensures_bind.mpr fun _ _ => hblock
    · exact hblock

/-- The instructions that R443 names. -/
def writesRequests : Instr → Bool
  | .trr _ | .mst _ | .mcl _ | .mon _ | .wait _ => true
  | _ => false

theorem requestsAfter_of_same (hi : writesRequests i = false) (h : SameRequests s t) : RequestsAfter s i t := by
  cases i with
  | trr | mst | mcl | mon | wait => exact nomatch hi
  | _ => exact h

/-- The privileged instructions that R443 does not name. -/
theorem executed_sameRequests_of_privileged (hpriv : i.privileged = true) (hi : writesRequests i = false) :
    EnsuresNext (SameRequests s) (executed i s) := by
  cases i
  case iox => simp [executed, execIox, sameRequests_exchange]
  case ioxt => simp [executed, execIoxt, sameRequests_exchange]
  case ident => simp [executed, execIdent, State.traced]
  case iof | ion | pof | piof | pion | pon | rex | sex =>
    simp [executed, execIof, execIon, execPof, execPiof, execPion, execPon, execRex, execSex]
  case opcom => simp [executed, execOpcom, halt]
  case tra =>
    simp only [executed, execTra, ensuresNext_finish, ensures_bind]
    intro _ _ _ _
    split <;> simp [traUnheld]
  case irr _ r => cases r <;> simp [executed, execIrr]
  case irw | srb => simp [executed, execIrw, execSrb]
  case lrb =>
    simp only [executed, execLrb, ensuresNext_finish, ensures_bind]
    intro _ _ _ _
    split <;> simp
  case depo | exam | rdus | tset => simp [executed, execDepo, execExam, execRdus, execTset]
  case ldatx | ldxtx | lddtx | ldbtx => simp [executed, execLdatx, execLdxtx, execLddtx, execLdbtx]
  case statx | stztx | stdtx => simp [executed, execStatx, execStztx, execStdtx, physStore_ok]
  case lwcs =>
    simp only [executed, execLwcs]
    split
    · simp
    · split <;> simp
  case wglob | rglob => simp [executed, execWglob, execRglob]
  case lbit | sbit | lbitp | sbitp => simp [executed, execLbit, execSbit, execLbitp, execSbitp, loadArrayBit]
  case lbytp | sbytp | rdusp | tsetp => simp [executed, execLbytp, execSbytp, execRdusp, execTsetp]
  case setpt => exact ensuresNext_execSetpt_sameRequests s
  case clept => exact ensuresNext_execClept_sameRequests s
  case clepu | chreentpages | clnreent | clpt | cnrek | enpt | inspl | rempl | rept =>
    exact ensuresNext_finish.mpr (ensures_runSintran_sameRequests _ _ s)
  case lasb | lacb | lxsb | lxcb => simp [executed, execLasb, execLacb, execLxsb, execLxcb]
  case sasb | sacb | szsb | szcb => simp [executed, execSasb, execSacb, execSzsb, execSzcb]
  case movew ty => exact ensuresNext_execMovew_sameRequests ty s
  case trr | mst | mcl | wait => exact nomatch hi
  all_goals exact nomatch hpriv

theorem executed_sameRequests (hi : writesRequests i = false) (h : executed i s = .next t) : SameRequests s t := by
  cases hpriv : i.privileged with
  | true => exact executed_sameRequests_of_privileged hpriv hi t h
  | false =>
    obtain ⟨hcontrol, -, -⟩ := executed_programEffect hpriv (fun n hn => by subst hn; exact nomatch hi) s t h
    exact ⟨hcontrol.pid, hcontrol.pie⟩

/-! ## The five instructions of R443 -/

theorem post_of_next {post : State → Prop} (hi : Completes i s post) (h : exec i s = .next t) : post t := by
  obtain ⟨u, hu, hpost⟩ := hi
  exact Host.Outcome.next.inj (hu.symm.trans h) ▸ hpost

/-- An instruction that ends in a next state has passed its two checks. -/
theorem checks_of_next {why : Reserved} {ok : Bool} {rest : Except Fault State}
    (hexec : exec i s = finish (do requirePrivilege s i; requireOperand s i why ok; rest)) (h : exec i s = .next t) :
    privOk s = true ∧ ok = true := by
  obtain ⟨_, hpriv, hrest⟩ := bind_ok.mp (finish_next.mp (hexec.symm.trans h))
  obtain ⟨_, hok, -⟩ := bind_ok.mp hrest
  exact ⟨requirePrivilege_ok.mp hpriv, requireOperand_ok.mp hok⟩

theorem requestsAfter_trr (h : exec (.trr n) s = .next t) : RequestsAfter s (.trr n) t := by
  obtain ⟨hpriv, hok⟩ := checks_of_next rfl h
  simp only [trrOk, Bool.and_eq_true, bne_iff_ne] at hok
  obtain ⟨⟨h4, h14⟩, h16⟩ := hok
  obtain ⟨-, -, hcontrol, -⟩ := post_of_next (trr_completes hpriv h4 h14 h16) h
  exact ⟨hcontrol.pid, hcontrol.pie⟩

theorem maskedOk_iff : maskedOk n = true ↔ n = 1 ∨ n = 6 ∨ n = 7 := by
  simp [maskedOk, or_assoc]

theorem requestsAfter_mst (h : exec (.mst n) s = .next t) : RequestsAfter s (.mst n) t := by
  obtain ⟨hpriv, hok⟩ := checks_of_next rfl h
  obtain ⟨-, -, hcontrol, -⟩ := post_of_next (mst_completes hpriv (maskedOk_iff.mp hok)) h
  exact ⟨hcontrol.pid, hcontrol.pie⟩

theorem requestsAfter_mcl (h : exec (.mcl n) s = .next t) : RequestsAfter s (.mcl n) t := by
  obtain ⟨hpriv, hok⟩ := checks_of_next rfl h
  obtain ⟨-, -, hcontrol, -⟩ := post_of_next (mcl_completes hpriv (maskedOk_iff.mp hok)) h
  exact ⟨hcontrol.pid, hcontrol.pie⟩

theorem requestsAfter_mon {k : Byte} (h : exec (.mon k) s = .next t) : RequestsAfter s (.mon k) t := by
  obtain rfl : monState k s = t := Host.Outcome.next.inj h
  exact ⟨rfl, rfl⟩

theorem advance_of_advancesIn {u : State} (hi : AdvancesIn i s u) (h : exec i s = .next t) : t = u.advance := by
  obtain ⟨_, hcheck, hrest⟩ := bind_ok.mp (finish_next.mp (hi.symm.trans h))
  exact (Except.ok.inj hrest).symm

/-- `WAIT` gives up its request where it neither stops the machine nor runs on level 0 (R281, R449). -/
theorem requestsAfter_wait {k : Byte} (h : exec (.wait k) s = .next t) : RequestsAfter s (.wait k) t := by
  cases hioni : s.ioni with
  | false =>
    obtain rfl := advance_of_advancesIn (advancesIn_wait_of_ioni_off k hioni) h
    exact ⟨(if_neg fun ⟨hon, _⟩ => Bool.false_ne_true (hioni.symm.trans hon)).symm, rfl⟩
  | true =>
    by_cases hpil : s.pil = 0
    · obtain rfl := advance_of_advancesIn (advancesIn_wait_of_levelZero k hioni hpil) h
      exact ⟨(if_neg fun ⟨_, hne⟩ => hne hpil).symm, rfl⟩
    · obtain rfl := advance_of_advancesIn (advancesIn_wait_of_levelAboveZero k hioni hpil) h
      exact ⟨(if_pos ⟨hioni, hpil⟩).symm, rfl⟩

theorem requestsAfter_of_executed (h : executed i s = .next t) : RequestsAfter s i t := by
  cases hi : writesRequests i with
  | false => exact requestsAfter_of_same hi (executed_sameRequests hi h)
  | true =>
    cases i with
    | trr n => exact requestsAfter_trr h
    | mst n => exact requestsAfter_mst h
    | mcl n => exact requestsAfter_mcl h
    | mon n => exact requestsAfter_mon h
    | wait n => exact requestsAfter_wait h
    | _ => exact nomatch hi

theorem applyHostEvent_pie (s : State) (e : HostEvent) : (applyHostEvent s e).pie = s.pie := by
  rw [applyHostEvent_eq]

theorem applyHostEvent_memWrite_pid (s : State) (pa : PhysAddr) (v : Word) :
    (applyHostEvent s (.memWrite pa v)).pid = s.pid := by
  simp only [applyHostEvent, State.physWriteIfInstalled]
  split <;> rfl

end Requests

/-- Settles O9: the instruction whose rule runs is one of the five or leaves both as they were. -/
theorem pidAndPieWriters : Obligations.PidAndPieWriters := by
  unfold Obligations.PidAndPieWriters
  refine ⟨fun i s t hexec => ?instruction, fun s => ?levelChange, fun s e => ⟨applyHostEvent_pie s e, ?dma⟩, rfl, rfl⟩
  case instruction =>
    obtain ⟨j, hruns, hnext⟩ := exists_runs_of_next hexec
    exact ⟨j, hruns, requestsAfter_of_executed hnext⟩
  case levelChange =>
    rw [levelChange_eq]
    exact ⟨rfl, rfl⟩
  case dma =>
    rintro pa v rfl
    exact applyHostEvent_memWrite_pid s pa v

end Sys2Proof.Proofs
end

section
/-! PROOFS. The loads and stores of memory reference (R300 to R310, R421, R422). A load reads consecutive words at EA and writes
registers; a store writes a list of words at EA. -/

namespace Sys2Proof.Proofs

open Sys2Proof Sys2Proof.Machine

/-! ## Loads -/

section Loads

variable {m : MemOperand} {s : State} {ea v v1 v2 : Word} {f : Fault}

/-- The operand of the 32-bit format: two words (R420). -/
theorem floatOperand_of_float32 (hformat : s.params.float48 = false) (hea : effAddr s m = .ok ea)
    (hread : memRead s ea = .ok v) (hread1 : memRead s (ea + 1) = .ok v1) :
    floatOperand s m = .ok { t := 0, a := v, d := v1 } := by
  simp only [floatOperand, hea, hformat, hread, hread1, ok_bind, pure_ok, if_false, Bool.false_eq_true]

/-- The operand of the 48-bit format: three words (R420). -/
theorem floatOperand_of_float48 (hformat : s.params.float48 = true) (hea : effAddr s m = .ok ea)
    (hread : memRead s ea = .ok v) (hread1 : memRead s (ea + 1) = .ok v1) (hread2 : memRead s (ea + 2) = .ok v2) :
    floatOperand s m = .ok { t := v, a := v1, d := v2 } := by
  simp only [floatOperand, hea, hformat, hread, hread1, hread2, ok_bind, pure_ok, if_true]

/-- The first word is read in either format. -/
theorem floatOperand_error_of_first (h : memOperand s m = .error f) : floatOperand s m = .error f := by
  rcases memOperand_error.mp h with hea | ⟨ea, hea, hread⟩
  · simp [floatOperand, hea]
  · cases hformat : s.params.float48 <;> simp [floatOperand, hea, hformat, hread]

/-- The second word is read in either format. -/
theorem floatOperand_error_of_second (hea : effAddr s m = .ok ea) (hread : memRead s ea = .ok v)
    (hread1 : memRead s (ea + 1) = .error f) : floatOperand s m = .error f := by
  cases hformat : s.params.float48 <;>
    simp only [floatOperand, hea, hformat, hread, hread1, ok_bind, pure_ok, error_bind, if_true, if_false, Bool.false_eq_true]

theorem floatOperand_error_of_third (hformat : s.params.float48 = true) (hea : effAddr s m = .ok ea)
    (hread : memRead s ea = .ok v) (hread1 : memRead s (ea + 1) = .ok v1) (hread2 : memRead s (ea + 2) = .error f) :
    floatOperand s m = .error f := by
  simp only [floatOperand, hea, hformat, hread, hread1, hread2, ok_bind, pure_ok, error_bind, if_true]

theorem exec_ldf (m : MemOperand) (s : State) : exec (.ldf m) s = finish do
    let v ← floatOperand s m
    return s.setCur (s.cur.step.setAcc s.params.float48 v) := rfl

/-- `LDF` in either format, once its operand is read (R421). -/
theorem completes_ldf {acc : Acc} (hread : floatOperand s m = .ok acc) :
    Completes (.ldf m) s fun t => SetsRegisters s t (s.cur.step.setAcc s.params.float48 acc) :=
  .ok (exec_ldf m s) (by rw [hread]; rfl) (setsRegisters_setCur s _)

theorem ldf_fault (hread : floatOperand s m = .error f) : exec (.ldf m) s = .fault f := by
  rw [exec_ldf, hread]
  rfl

/-- `LDD`: the word at EA, then the word after it (R301). -/
theorem exec_ldd (m : MemOperand) (s : State) : exec (.ldd m) s = finish do
    let ea ← effAddr s m
    let hi ← memRead s ea
    let lo ← memRead s (ea + 1)
    return s.setCur { s.cur with p := s.cur.p + 1, a := hi, d := lo } := rfl

theorem completes_ldd (hea : effAddr s m = .ok ea) (hread : memRead s ea = .ok v)
    (hread1 : memRead s (ea + 1) = .ok v1) :
    Completes (.ldd m) s fun t => SetsRegisters s t { s.cur with p := s.cur.p + 1, a := v, d := v1 } :=
  .ok (exec_ldd m s) (by simp only [hea, hread, hread1, ok_bind, pure_ok]) (setsRegisters_setCur s _)

theorem ldd_fault_of_first (h : memOperand s m = .error f) : exec (.ldd m) s = .fault f := by
  rw [exec_ldd]
  rcases memOperand_error.mp h with hea | ⟨ea, hea, hread⟩
  · simp only [hea, error_bind, finish_error]
  · simp only [hea, hread, ok_bind, error_bind, finish_error]

theorem ldd_fault_of_second (hea : effAddr s m = .ok ea) (hread : memRead s ea = .ok v)
    (hread1 : memRead s (ea + 1) = .error f) : exec (.ldd m) s = .fault f := by
  simp only [exec_ldd, hea, hread, hread1, ok_bind, error_bind, finish_error]

theorem readsInto_lda (m : MemOperand) (s : State) :
    ReadsInto (.lda m) s m fun v => { s.cur with p := s.cur.p + 1, a := v } := rfl

theorem readsInto_ldt (m : MemOperand) (s : State) :
    ReadsInto (.ldt m) s m fun v => { s.cur with p := s.cur.p + 1, t := v } := rfl

theorem readsInto_ldx (m : MemOperand) (s : State) :
    ReadsInto (.ldx m) s m fun v => { s.cur with p := s.cur.p + 1, x := v } := rfl

end Loads

/-- Settles O36: the five words, the one-word loads as reads of their operand, then the two and three words of `LDD` and
`LDF`. -/
theorem loadsFromMemory : Obligations.LoadsFromMemory := by
  unfold Obligations.LoadsFromMemory
  intro m s
  refine ⟨encodeMem_toNat 9 m, encodeMem_toNat 10 m, encodeMem_toNat 11 m, encodeMem_toNat 5 m, encodeMem_toNat 7 m,
    fun ea v hea hread => ?reads, fun i f hi hfails => ?firstFails, fun ea v f hea hread => ?later⟩
  case reads =>
    refine ⟨(readsInto_lda m s).completes hea hread, (readsInto_ldt m s).completes hea hread,
      (readsInto_ldx m s).completes hea hread, fun v1 hread1 => ⟨completes_ldd hea hread hread1, ?float32, ?float48⟩⟩
    case float32 =>
      intro hformat
      have hldf := completes_ldf (floatOperand_of_float32 hformat hea hread hread1)
      rw [hformat] at hldf
      exact hldf
    case float48 =>
      intro v2 hformat hread2
      have hldf := completes_ldf (floatOperand_of_float48 hformat hea hread hread1 hread2)
      rw [hformat] at hldf
      exact hldf
  case firstFails =>
    have hf := memOperand_error.mpr hfails
    simp only [List.mem_cons, List.not_mem_nil, or_false] at hi
    obtain rfl | rfl | rfl | rfl | rfl := hi
    · exact (readsInto_lda m s).fault hf
    · exact (readsInto_ldt m s).fault hf
    · exact (readsInto_ldx m s).fault hf
    · exact ldd_fault_of_first hf
    · exact ldf_fault (floatOperand_error_of_first hf)
  case later =>
    exact ⟨fun hread1 => ⟨ldd_fault_of_second hea hread hread1, ldf_fault (floatOperand_error_of_second hea hread hread1)⟩,
      fun v1 hread1 hformat hread2 => ldf_fault (floatOperand_error_of_third hformat hea hread hread1 hread2)⟩

/-! ## Consecutive words stored -/

section StoreWords

variable {s : State} {f : Fault}

theorem add_one_add_ofNat (ea : Word) (k : Nat) : ea + 1 + BitVec.ofNat 16 k = ea + BitVec.ofNat 16 (k + 1) := by
  rw [BitVec.ofNat_add, BitVec.add_comm (BitVec.ofNat 16 k), ← BitVec.add_assoc]
  rfl

/-- Words that all find their place are stored there, one after the other. -/
theorem storeWords_ok (stores : List (PhysAddr × Word)) : ∀ (ea : Word) (mem : Memory),
    (∀ k (hk : k < stores.length), locate s (ea + BitVec.ofNat 16 k) .write = .ok stores[k].1) →
    storeWords s (stores.map Prod.snd) ea mem = .ok (storedMem mem stores) := by
  induction stores with
  | nil => exact fun _ _ _ => rfl
  | cons w rest ih =>
    intro ea mem hreach
    have hfirst : locate s ea .write = .ok w.1 := by simpa using hreach 0 (Nat.succ_pos _)
    have hrest : ∀ k (hk : k < rest.length), locate s (ea + 1 + BitVec.ofNat 16 k) .write = .ok rest[k].1 := by
      intro k hk
      rw [add_one_add_ofNat]
      exact hreach (k + 1) (Nat.succ_lt_succ hk)
    rw [List.map_cons, storeWords, hfirst, ok_bind, ih (ea + 1) _ hrest]
    rfl

/-- The first word that finds no place is the fault. -/
theorem storeWords_error (k : Nat) : ∀ (l : List Word) (ea : Word) (mem : Memory), k < l.length →
    (∀ j, j < k → ∃ pa, locate s (ea + BitVec.ofNat 16 j) .write = .ok pa) →
    locate s (ea + BitVec.ofNat 16 k) .write = .error f → storeWords s l ea mem = .error f := by
  induction k with
  | zero =>
    intro l ea mem hk _ hfails
    obtain ⟨v, rest, rfl⟩ := List.exists_cons_of_length_pos hk
    have hfirst : locate s ea .write = .error f := by simpa using hfails
    rw [storeWords, hfirst, error_bind]
  | succ k ih =>
    intro l ea mem hk hbefore hfails
    obtain ⟨v, rest, rfl⟩ := List.exists_cons_of_length_pos (Nat.zero_lt_of_lt hk)
    obtain ⟨pa, hpa⟩ := hbefore 0 (Nat.succ_pos k)
    have hfirst : locate s ea .write = .ok pa := by simpa using hpa
    rw [storeWords, hfirst, ok_bind]
    refine ih rest (ea + 1) _ (Nat.lt_of_succ_lt_succ hk) (fun j hj => ?_) ?_
    · rw [add_one_add_ofNat]
      exact hbefore (j + 1) (Nat.succ_lt_succ hj)
    · rw [add_one_add_ofNat]
      exact hfails

end StoreWords

/-! ## Stores -/

/-- The meaning of `i` is to store the words `l` at EA and to advance P. -/
def StoresFrom (i : Instr) (s : State) (m : MemOperand) (l : List Word) : Prop :=
  exec i s = finish do
    let ea ← effAddr s m
    let mem ← storeWords s l ea s.mem
    return { s.advance with mem := mem }

section Stores

variable {i : Instr} {m : MemOperand} {s : State} {l : List Word} {ea v v1 v2 : Word} {p0 p1 p2 : PhysAddr} {f : Fault}

/-- One store of one word. -/
theorem storesFrom_one (h : exec i s = finish (do let ea ← effAddr s m; storeWord s ea v)) : StoresFrom i s m [v] := by
  rw [StoresFrom, h]
  congr 2
  funext ea
  simp only [storeWord, storeWords, bind_assoc, ok_bind]
  rfl

theorem storesFrom_std (m : MemOperand) (s : State) : StoresFrom (.std m) s m [s.cur.a, s.cur.d] := by
  have hexec : exec (.std m) s = execStd m s := rfl
  rw [StoresFrom, hexec, execStd]
  congr 2
  funext ea
  simp only [storeWords, bind_assoc, ok_bind]
  rfl

theorem storesFrom_stf (m : MemOperand) (s : State) :
    StoresFrom (.stf m) s m (if s.params.float48 then [s.cur.t, s.cur.a, s.cur.d] else [s.cur.a, s.cur.d]) := rfl

/-- The stores `stores` made, where each finds its word. -/
theorem StoresFrom.completes {stores : List (PhysAddr × Word)} (h : StoresFrom i s m (stores.map Prod.snd))
    (hea : effAddr s m = .ok ea)
    (hreach : ∀ k (hk : k < stores.length), locate s (ea + BitVec.ofNat 16 k) .write = .ok stores[k].1)
    (hwf : s.mem.wf = true) :
    Completes i s fun t => SetsAndStores s t { s.cur with p := s.cur.p + 1 } stores :=
  .ok h (by rw [hea, ok_bind, storeWords_ok stores ea s.mem hreach]; rfl) (setsAndStores_of hwf rfl)

theorem StoresFrom.completes_one (h : StoresFrom i s m [v]) (hea : effAddr s m = .ok ea)
    (hwrite : locate s ea .write = .ok p0) (hwf : s.mem.wf = true) :
    Completes i s fun t => SetsAndStores s t { s.cur with p := s.cur.p + 1 } [(p0, v)] :=
  StoresFrom.completes (stores := [(p0, v)]) h hea (fun
    | 0, _ => by simpa using hwrite) hwf

theorem StoresFrom.completes_two (h : StoresFrom i s m [v, v1]) (hea : effAddr s m = .ok ea)
    (hwrite : locate s ea .write = .ok p0) (hwrite1 : locate s (ea + 1) .write = .ok p1) (hwf : s.mem.wf = true) :
    Completes i s fun t => SetsAndStores s t { s.cur with p := s.cur.p + 1 } [(p0, v), (p1, v1)] :=
  StoresFrom.completes (stores := [(p0, v), (p1, v1)]) h hea (fun
    | 0, _ => by simpa using hwrite
    | 1, _ => hwrite1) hwf

theorem StoresFrom.completes_three (h : StoresFrom i s m [v, v1, v2]) (hea : effAddr s m = .ok ea)
    (hwrite : locate s ea .write = .ok p0) (hwrite1 : locate s (ea + 1) .write = .ok p1)
    (hwrite2 : locate s (ea + 2) .write = .ok p2) (hwf : s.mem.wf = true) :
    Completes i s fun t => SetsAndStores s t { s.cur with p := s.cur.p + 1 } [(p0, v), (p1, v1), (p2, v2)] :=
  StoresFrom.completes (stores := [(p0, v), (p1, v1), (p2, v2)]) h hea (fun
    | 0, _ => by simpa using hwrite
    | 1, _ => hwrite1
    | 2, _ => hwrite2) hwf

theorem StoresFrom.fault {k : Nat} (h : StoresFrom i s m l) (hk : k < l.length) (hea : effAddr s m = .ok ea)
    (hbefore : ∀ j, j < k → ∃ pa, locate s (ea + BitVec.ofNat 16 j) .write = .ok pa)
    (hfails : locate s (ea + BitVec.ofNat 16 k) .write = .error f) : exec i s = .fault f := by
  rw [h, hea, ok_bind, storeWords_error k l ea s.mem hk hbefore hfails]
  rfl

theorem StoresFrom.fault_of_first (h : StoresFrom i s m l) (hl : 0 < l.length)
    (hfails : effAddr s m = .error f ∨ ∃ ea, effAddr s m = .ok ea ∧ locate s ea .write = .error f) :
    exec i s = .fault f := by
  rcases hfails with hea | ⟨ea, hea, hwrite⟩
  · rw [h, hea]
    rfl
  · exact h.fault hl hea (fun j hj => absurd hj (Nat.not_lt_zero j)) (by simpa using hwrite)

theorem StoresFrom.fault_of_second (h : StoresFrom i s m l) (hl : 1 < l.length) (hea : effAddr s m = .ok ea)
    (hwrite : locate s ea .write = .ok p0) (hfails : locate s (ea + 1) .write = .error f) : exec i s = .fault f :=
  h.fault hl hea (fun
    | 0, _ => ⟨p0, by simpa using hwrite⟩) hfails

theorem StoresFrom.fault_of_third (h : StoresFrom i s m l) (hl : 2 < l.length) (hea : effAddr s m = .ok ea)
    (hwrite : locate s ea .write = .ok p0) (hwrite1 : locate s (ea + 1) .write = .ok p1)
    (hfails : locate s (ea + 2) .write = .error f) : exec i s = .fault f :=
  h.fault hl hea (fun
    | 0, _ => ⟨p0, by simpa using hwrite⟩
    | 1, _ => ⟨p1, hwrite1⟩) hfails

end Stores

section StfFormats

variable {m : MemOperand} {s : State}

theorem storesFrom_stf_float32 (hformat : s.params.float48 = false) :
    StoresFrom (.stf m) s m [s.cur.a, s.cur.d] := by
  have h := storesFrom_stf m s
  rw [hformat] at h
  exact h

theorem storesFrom_stf_float48 (hformat : s.params.float48 = true) :
    StoresFrom (.stf m) s m [s.cur.t, s.cur.a, s.cur.d] := by
  have h := storesFrom_stf m s
  rw [hformat] at h
  exact h

/-- `STF` stores two words at least. -/
theorem one_lt_length_stf (s : State) :
    1 < (if s.params.float48 then [s.cur.t, s.cur.a, s.cur.d] else [s.cur.a, s.cur.d]).length := by
  split <;> simp

end StfFormats

/-- Settles O37: the six words, and each instruction as a list of stores at EA. -/
theorem storesToMemory : Obligations.StoresToMemory := by
  unfold Obligations.StoresToMemory
  intro m s
  have hsta : StoresFrom (.sta m) s m [s.cur.a] := storesFrom_one rfl
  have hstt : StoresFrom (.stt m) s m [s.cur.t] := storesFrom_one rfl
  have hstx : StoresFrom (.stx m) s m [s.cur.x] := storesFrom_one rfl
  have hstz : StoresFrom (.stz m) s m [0] := storesFrom_one rfl
  refine ⟨encodeMem_toNat 1 m, encodeMem_toNat 2 m, encodeMem_toNat 3 m, ?stz, encodeMem_toNat 4 m, encodeMem_toNat 6 m,
    fun ea p0 hea hwrite hwf => ?stores, fun i f hi hfails => ?firstFails, fun ea p0 f hea hwrite => ?later⟩
  case stz => exact (encodeMem_toNat 0 m).trans (Nat.zero_add _)
  case stores =>
    refine ⟨hsta.completes_one hea hwrite hwf, hstt.completes_one hea hwrite hwf, hstx.completes_one hea hwrite hwf,
      hstz.completes_one hea hwrite hwf, fun p1 hwrite1 => ⟨?std, fun hformat => ?float32, fun p2 hformat hwrite2 => ?float48⟩⟩
    case std => exact (storesFrom_std m s).completes_two hea hwrite hwrite1 hwf
    case float32 => exact (storesFrom_stf_float32 hformat).completes_two hea hwrite hwrite1 hwf
    case float48 => exact (storesFrom_stf_float48 hformat).completes_three hea hwrite hwrite1 hwrite2 hwf
  case firstFails =>
    simp only [List.mem_cons, List.not_mem_nil, or_false] at hi
    obtain rfl | rfl | rfl | rfl | rfl | rfl := hi
    · exact hsta.fault_of_first Nat.one_pos hfails
    · exact hstt.fault_of_first Nat.one_pos hfails
    · exact hstx.fault_of_first Nat.one_pos hfails
    · exact hstz.fault_of_first Nat.one_pos hfails
    · exact (storesFrom_std m s).fault_of_first Nat.two_pos hfails
    · exact (storesFrom_stf m s).fault_of_first (Nat.zero_lt_of_lt (one_lt_length_stf s)) hfails
  case later =>
    refine ⟨fun hfails => ⟨?std, ?stf⟩, fun p1 hwrite1 hformat hfails => ?third⟩
    case std => exact (storesFrom_std m s).fault_of_second Nat.one_lt_two hea hwrite hfails
    case stf => exact (storesFrom_stf m s).fault_of_second (one_lt_length_stf s) hea hwrite hfails
    case third => exact (storesFrom_stf_float48 hformat).fault_of_third (Nat.lt_succ_self 2) hea hwrite hwrite1 hfails

end Sys2Proof.Proofs
end

section
/-! PROOFS. Memory examine and test (R210, R231, R290, R291) and the physical transfers (R316 to R323, R328, R329). -/

namespace Sys2Proof.Proofs

open Sys2Proof Sys2Proof.Machine

/-! ## RDUS, TSET and their physical forms -/

theorem checksPrivilege_rdus (s : State) : ChecksPrivilege .rdus s do
    let w ← memRead s s.cur.t
    return s.setCur { s.cur with p := s.cur.p + 1, a := w } := rfl

/-- One translation, as a write, for the read and the write. -/
theorem checksPrivilege_tset (s : State) : ChecksPrivilege .tset s do
    let pa ← locate s s.cur.t .write
    return { s.setCur { s.cur with p := s.cur.p + 1, a := s.mem.readWord pa } with mem := s.mem.writeWord pa 0o177777 } := rfl

theorem loadsPhysical_rdusp (s : State) : LoadsPhysical .rdusp s (bankAddr s.cur.t s.cur.x) fun w =>
    { s.cur with p := s.cur.p + 1, a := w } := by
  rw [← physAddr_eq_bankAddr]
  rfl

theorem checksPrivilege_tsetp (s : State) : ChecksPrivilege .tsetp s (do
    let w ← physLoad s (bankAddr s.cur.t s.cur.x)
    physStore (s.setCur { s.cur with p := s.cur.p + 1, a := w }) (bankAddr s.cur.t s.cur.x) 0o177777) := by
  rw [← physAddr_eq_bankAddr]
  rfl

theorem completes_tsetp {s : State} (hpriv : privOk s = true)
    (hin : (bankAddr s.cur.t s.cur.x).toNat < s.params.physWords) (hwf : s.mem.wf = true) :
    Completes .tsetp s fun t => SetsAndStores s t
      { s.cur with p := s.cur.p + 1, a := s.mem.readWord (bankAddr s.cur.t s.cur.x) }
      [(bankAddr s.cur.t s.cur.x, 0o177777)] :=
  (checksPrivilege_tsetp s).completes hpriv (by rw [physLoad_of_lt hin]; exact physStore_of_lt (s := s.setCur _) hin)
    (setsAndStores_of hwf rfl)

/-- Settles O32: the logical pair at the word `locate` gives, the physical pair at the word of bank T. -/
theorem readAndTestAndSet : Obligations.ReadAndTestAndSet := by
  unfold Obligations.ReadAndTestAndSet
  intro s hpriv pa
  refine ⟨fun w hread => ?rdus, fun f hread => ?rdusFault, fun pw hwrite hwf => ?tset, fun f hwrite => ?tsetFault,
    fun hin => ⟨(loadsPhysical_rdusp s).completes hpriv hin, completes_tsetp hpriv hin⟩,
    fun hout => ⟨(loadsPhysical_rdusp s).fault hpriv hout, ?missing⟩⟩
  case rdus => exact (checksPrivilege_rdus s).completes hpriv (by rw [hread]; rfl) (setsRegisters_setCur s _)
  case rdusFault => exact (checksPrivilege_rdus s).fault hpriv (by rw [hread]; rfl)
  case tset => exact (checksPrivilege_tset s).completes hpriv (by rw [hwrite]; rfl) (setsAndStores_of hwf rfl)
  case tsetFault => exact (checksPrivilege_tset s).fault hpriv (by rw [hwrite]; rfl)
  case missing => exact (checksPrivilege_tsetp s).fault hpriv (by rw [physLoad_of_le hout]; rfl)

/-! ## The physical transfers (R316 to R323, decision D43) -/

/-- The window address of R319: bits 8-0 of the word, doubled, in the last 512 words. -/
theorem pageTableSlot_eq (w : Word) : pageTableSlot w = 0o177000#16 ||| BitVec.ofNat 16 (2 * w.toNat) := by
  have hdouble : w <<< 1 = BitVec.ofNat 16 (2 * w.toNat) := by
    refine BitVec.eq_of_toNat_eq ?_
    rw [BitVec.toNat_shiftLeft, BitVec.toNat_ofNat, Nat.shiftLeft_eq, Nat.mul_comm w.toNat]
  rw [← hdouble]
  rfl

theorem txOperand_eq (s : State) (delta : BitVec 3) :
    txOperand s delta = bankAddr s.cur.t (s.cur.x + delta.setWidth 16) := txAddr_eq _ _

theorem txNext_eq (s : State) (delta : BitVec 3) :
    txNext s delta = bankAddr s.cur.t (s.cur.x + delta.setWidth 16 + 1) := txAddr_eq _ _

/-- The five instructions of one word at `pa` and the two of the words at `pa` and `pb`. -/
structure TransfersAt (delta : BitVec 3) (s : State) (pa pb : PhysAddr) : Prop where
  loadA       : LoadsPhysical (.ldatx delta) s pa fun w => { s.cur with p := s.cur.p + 1, a := w }
  loadX       : LoadsPhysical (.ldxtx delta) s pa fun w => { s.cur with p := s.cur.p + 1, x := w }
  loadB       : LoadsPhysical (.ldbtx delta) s pa fun w =>
    { s.cur with p := s.cur.p + 1, b := 0o177000#16 ||| BitVec.ofNat 16 (2 * w.toNat) }
  loadDouble  : ChecksPrivilege (.lddtx delta) s do
    let hi ← physLoad s pa
    let lo ← physLoad s pb
    return s.setCur { s.cur with p := s.cur.p + 1, a := hi, d := lo }
  storeA      : StoresPhysical (.statx delta) s pa s.cur.a
  storeZero   : StoresPhysical (.stztx delta) s pa 0
  storeDouble : ChecksPrivilege (.stdtx delta) s do
    let s1 ← physStore s.advance pa s.cur.a
    physStore s1 pb s.cur.d

theorem transfersAt (delta : BitVec 3) (s : State) :
    TransfersAt delta s (bankAddr s.cur.t (s.cur.x + delta.setWidth 16))
      (bankAddr s.cur.t (s.cur.x + delta.setWidth 16 + 1)) := by
  rw [← txOperand_eq, ← txNext_eq]
  refine ⟨rfl, rfl, ?_, rfl, rfl, rfl, rfl⟩
  simp only [← pageTableSlot_eq]
  rfl

section Transfers

variable {delta : BitVec 3} {s : State} {pa pb : PhysAddr}

theorem TransfersAt.completes_lddtx (h : TransfersAt delta s pa pb) (hpriv : privOk s = true)
    (hin : pa.toNat < s.params.physWords) (hnext : pb.toNat < s.params.physWords) :
    Completes (.lddtx delta) s fun t => SetsRegisters s t
      { s.cur with p := s.cur.p + 1, a := s.mem.readWord pa, d := s.mem.readWord pb } :=
  h.loadDouble.completes hpriv (by rw [physLoad_of_lt hin, ok_bind, physLoad_of_lt hnext]; rfl) (setsRegisters_setCur s _)

theorem TransfersAt.completes_stdtx (h : TransfersAt delta s pa pb) (hpriv : privOk s = true)
    (hin : pa.toNat < s.params.physWords) (hnext : pb.toNat < s.params.physWords) (hwf : s.mem.wf = true) :
    Completes (.stdtx delta) s fun t => SetsAndStores s t { s.cur with p := s.cur.p + 1 }
      [(pa, s.cur.a), (pb, s.cur.d)] :=
  h.storeDouble.completes hpriv
    (by rw [physStore_of_lt (s := s.advance) hin, ok_bind]; exact physStore_of_lt (s := s.advance.physWrite pa _) hnext)
    (setsAndStores_of hwf rfl)

/-- The first word is missing: none of the seven does anything. -/
theorem TransfersAt.fault_of_first {i : Instr} (h : TransfersAt delta s pa pb) (hpriv : privOk s = true)
    (hout : s.params.physWords ≤ pa.toNat)
    (hi : i ∈ [Instr.ldatx delta, .ldxtx delta, .ldbtx delta, .lddtx delta, .statx delta, .stztx delta, .stdtx delta]) :
    exec i s = .fault (.translationFault pa .nonexistent) := by
  simp only [List.mem_cons, List.not_mem_nil, or_false] at hi
  obtain rfl | rfl | rfl | rfl | rfl | rfl | rfl := hi
  · exact h.loadA.fault hpriv hout
  · exact h.loadX.fault hpriv hout
  · exact h.loadB.fault hpriv hout
  · exact h.loadDouble.fault hpriv (by rw [physLoad_of_le hout]; rfl)
  · exact h.storeA.fault hpriv hout
  · exact h.storeZero.fault hpriv hout
  · exact h.storeDouble.fault hpriv (by rw [physStore_of_le (s := s.advance) hout]; rfl)

/-- The second word is missing: nothing is loaded or stored either. -/
theorem TransfersAt.fault_of_second (h : TransfersAt delta s pa pb) (hpriv : privOk s = true)
    (hin : pa.toNat < s.params.physWords) (hout : s.params.physWords ≤ pb.toNat) :
    exec (.lddtx delta) s = .fault (.translationFault pb .nonexistent) ∧
      exec (.stdtx delta) s = .fault (.translationFault pb .nonexistent) :=
  ⟨h.loadDouble.fault hpriv (by rw [physLoad_of_lt hin, ok_bind, physLoad_of_le hout]; rfl),
    h.storeDouble.fault hpriv (by
      rw [physStore_of_lt (s := s.advance) hin, ok_bind]
      exact physStore_of_le (s := s.advance.physWrite pa _) hout)⟩

end Transfers

/-! ## DEPO and EXAM (R328, R329) -/

theorem loadsPhysical_exam (s : State) : LoadsPhysical .exam s (bankAddr s.cur.a s.cur.d) fun w =>
    { s.cur with p := s.cur.p + 1, t := w } := by
  rw [← physAddr_eq_bankAddr]
  rfl

theorem storesPhysical_depo (s : State) : StoresPhysical .depo s (bankAddr s.cur.a s.cur.d) s.cur.t := by
  rw [← physAddr_eq_bankAddr]
  rfl

/-- Settles O38: the seven transfers at X + Δ in the bank of T, then `DEPO` and `EXAM` at D in the bank of A. -/
theorem physicalTransfers : Obligations.PhysicalTransfers := by
  unfold Obligations.PhysicalTransfers
  intro delta s hpriv off p0 p1 pa next
  have h : TransfersAt delta s p0 p1 := transfersAt delta s
  refine ⟨fun hin => ?installed, fun hin => ?examined, fun i hout => h.fault_of_first hpriv hout, h.fault_of_second hpriv,
    fun hout => ?missing⟩
  case installed =>
    exact ⟨h.loadA.completes hpriv hin, h.loadX.completes hpriv hin, h.loadB.completes hpriv hin,
      h.completes_lddtx hpriv hin, fun hwf => ⟨h.storeA.completes hpriv hin hwf, h.storeZero.completes hpriv hin hwf,
        fun hnext => h.completes_stdtx hpriv hin hnext hwf⟩⟩
  case examined => exact ⟨(loadsPhysical_exam s).completes hpriv hin, (storesPhysical_depo s).completes hpriv hin⟩
  case missing => exact ⟨(loadsPhysical_exam s).fault hpriv hout, (storesPhysical_depo s).fault hpriv hout⟩

end Sys2Proof.Proofs
end

section
/-! PROOFS. The register blocks `LRB` and `SRB` (R331 to R333) and the monitor call (R326). -/

namespace Sys2Proof.Proofs

open Sys2Proof Sys2Proof.Machine

/-! ## LRB (R332) -/

/-- The block made of eight words in ascending order. -/
def blockAt (w : Nat → Word) : RegBlock :=
  { p := w 0, x := w 1, t := w 2, a := w 3, d := w 4, l := w 5, sts := w 6, b := w 7 }

theorem readBlock_ok {s : State} {ea : Word} {w : Nat → Word}
    (hread : ∀ k, k < 8 → memRead s (ea + BitVec.ofNat 16 k) = .ok (w k)) : readBlock s ea = .ok (blockAt w) := by
  have h0 : memRead s ea = .ok (w 0) := by simpa using hread 0 (by decide)
  have h1 : memRead s (ea + 1) = .ok (w 1) := hread 1 (by decide)
  have h2 : memRead s (ea + 2) = .ok (w 2) := hread 2 (by decide)
  have h3 : memRead s (ea + 3) = .ok (w 3) := hread 3 (by decide)
  have h4 : memRead s (ea + 4) = .ok (w 4) := hread 4 (by decide)
  have h5 : memRead s (ea + 5) = .ok (w 5) := hread 5 (by decide)
  have h6 : memRead s (ea + 6) = .ok (w 6) := hread 6 (by decide)
  have h7 : memRead s (ea + 7) = .ok (w 7) := hread 7 (by decide)
  simp only [readBlock, h0, h1, h2, h3, h4, h5, h6, h7, ok_bind, pure_ok]
  rfl

/-- The state after `LRB`: of the current level P passes the instruction. -/
def lrbState (level : Level) (k : RegBlock) (s : State) : State :=
  if level = s.pil then s.setCur (k.regs (s.cur.p + 1)) else s.advance.setLv level (k.regs k.p)

theorem checksPrivilege_lrb (s : State) (level : Level) : ChecksPrivilege (.lrb level) s do
    let k ← readBlock s s.cur.x
    return lrbState level k s := rfl

theorem lrbState_pil (s : State) (k : RegBlock) : lrbState s.pil k s = s.setCur (k.regs (s.cur.p + 1)) := if_pos rfl

theorem lrbState_of_ne {s : State} {level : Level} (h : level ≠ s.pil) (k : RegBlock) :
    lrbState level k s = s.advance.setLv level (k.regs k.p) := if_neg h

section Loaded

variable (level : Level) (k : RegBlock) (s : State)

theorem lrbState_lv : (lrbState level k s).lv level = k.regs (if level = s.pil then s.cur.p + 1 else k.p) := by
  by_cases h : level = s.pil
  · rw [h, lrbState_pil, if_pos rfl]
    exact s.setCur_cur _
  · rw [lrbState_of_ne h, if_neg h, State.setLv_lv_same]

theorem lrbState_cur (h : level ≠ s.pil) : (lrbState level k s).cur = { s.cur with p := s.cur.p + 1 } := by
  rw [lrbState_of_ne h]
  exact (State.setLv_cur_ne s.advance level _ h).trans s.advance_cur

theorem lrbState_lv_ne {n : Level} (hlevel : n ≠ level) (hpil : n ≠ s.pil) : (lrbState level k s).lv n = s.lv n := by
  by_cases h : level = s.pil
  · rw [h, lrbState_pil, s.setCur_lv_ne n _ hpil]
  · rw [lrbState_of_ne h, State.setLv_lv_ne _ _ _ _ hlevel, s.advance_lv_ne n hpil]

theorem sameControl_lrbState : SameControl s (lrbState level k s) := by
  unfold lrbState
  split <;> exact ⟨rfl, rfl, rfl, rfl, rfl, rfl, rfl, rfl, rfl, rfl, rfl, rfl, rfl, rfl, rfl⟩

theorem sameMemory_lrbState : SameMemory s (lrbState level k s) := by
  unfold lrbState
  split <;> exact fun _ => rfl

end Loaded

/-! ## SRB (R333) -/

/-- The eight stores of `SRB`, the words of the level's block at the words `q`. -/
def blockStores (q : Nat → PhysAddr) (k : RegBlock) : List (PhysAddr × Word) :=
  [(q 0, k.p), (q 1, k.x), (q 2, k.t), (q 3, k.a), (q 4, k.d), (q 5, k.l), (q 6, k.sts), (q 7, k.b)]

theorem blockStores_words (q : Nat → PhysAddr) (k : RegBlock) : (blockStores q k).map Prod.snd = k.words := rfl

theorem blockStores_fst (q : Nat → PhysAddr) (b : RegBlock) : ∀ k (hk : k < (blockStores q b).length),
    (blockStores q b)[k].1 = q k
  | 0, _ | 1, _ | 2, _ | 3, _ | 4, _ | 5, _ | 6, _ | 7, _ => rfl

theorem storeWords_block {s : State} {q : Nat → PhysAddr} {ea : Word} (k : RegBlock)
    (hwrite : ∀ k, k < 8 → locate s (ea + BitVec.ofNat 16 k) .write = .ok (q k)) :
    storeWords s k.words ea s.mem = .ok (storedMem s.mem (blockStores q k)) := by
  rw [← blockStores_words q k]
  refine storeWords_ok (blockStores q k) ea s.mem fun j hj => ?_
  rw [blockStores_fst q k j hj]
  exact hwrite j hj

/-- The state after `SRB`: of another level one value is drawn (log 7). -/
def srbState (level : Level) (mem : Memory) (s : State) : State :=
  { (s.drawn (stsDraws s level)).advance with mem := mem }

theorem checksPrivilege_srb (s : State) (level : Level) : ChecksPrivilege (.srb level) s do
    let mem ← storeWords s (blockOf s level).words s.cur.x s.mem
    return srbState level mem s := rfl

theorem setsAndStores_srbState {s : State} {stores : List (PhysAddr × Word)} (level : Level) (hwf : s.mem.wf = true) :
    SetsAndStores s (srbState level (storedMem s.mem stores) s) { s.cur with p := s.cur.p + 1 } stores := by
  obtain ⟨hcur, hothers, hcontrol, -⟩ := setsRegisters_drawn s (stsDraws s level) { s.cur with p := s.cur.p + 1 }
  exact ⟨hcur, hothers, ⟨rfl, rfl, rfl, rfl, rfl, rfl, rfl, rfl, rfl, rfl, rfl, rfl, rfl, rfl, rfl⟩, storesInto_of_mem hwf rfl⟩

/-- The P that `SRB` stores. -/
theorem blockOf_p (s : State) (level : Level) :
    (blockOf s level).p = if level = s.pil then s.cur.p + 1 else (s.lv level).p := by
  unfold blockOf
  split
  case isTrue h => exact h ▸ rfl
  case isFalse => rfl

/-- Settles O44: `LRB` by the level's registers after it, `SRB` as eight stores of which the word of STS is what the level's STS
reads as. -/
theorem registerBlocks : Obligations.RegisterBlocks := by
  unfold Obligations.RegisterBlocks
  intro level s hpriv
  refine ⟨fun w hread => ?lrb, fun q hwrite hwf => ?srb⟩
  case lrb =>
    exact (checksPrivilege_lrb s level).completes hpriv (by rw [readBlock_ok hread]; rfl)
      ⟨lrbState_lv level (blockAt w) s, lrbState_cur level _ s, fun _ => lrbState_lv_ne level _ s,
        sameControl_lrbState level _ s, sameMemory_lrbState level _ s⟩
  case srb =>
    refine (checksPrivilege_srb s level).completes hpriv (by rw [storeWords_block _ hwrite]; rfl)
      ⟨stsOfLevel s level, rightByte_stsOfLevel s level, fun h => h ▸ stsOfLevel_pil s, ?_⟩
    rw [← blockOf_p]
    exact setsAndStores_srbState level hwf

/-! ## MON (R326, R454) -/

theorem monState_cur_of_ne (n : Byte) (s : State) (h : s.pil ≠ 14) :
    (monState n s).cur = { s.cur with p := s.cur.p + 1 } :=
  (State.setLv_cur_ne s.advance 14 _ (Ne.symm h)).trans s.advance_cur

theorem monState_cur_of_eq (n : Byte) (s : State) (h : s.pil = 14) :
    (monState n s).cur = { s.cur with p := s.cur.p + 1, t := sext8 n } := by
  have hpil : (monState n s).cur = (monState n s).lv 14 := h ▸ rfl
  have hadvance : s.advance.lv 14 = s.cur.step := h ▸ advance_lv_pil s
  rw [hpil, monState_lv, hadvance]
  rfl

theorem highestBelow_of_bit_fourteen {req : Word} (h15 : req.getLsbD 15 = false) (h14 : req.getLsbD 14 = true) :
    highestBelow req 16 = 14 := by
  rw [highestBelow, h15, if_neg (by decide), highestBelow, h14, if_pos rfl]
  rfl

/-- The request of `MON` is the highest unless level 15 requests (R446, decision D38). -/
theorem levelChange_monState {s : State} (n : Byte) (hon : s.ioni = true) (hpie : s.pie.getLsbD 14 = true)
    (h15 : (s.pid.getLsbD 15 && s.pie.getLsbD 15) = false) : (levelChange (monState n s)).pil = 14 := by
  have hcontrol := monState_control n s
  rw [levelChange_pil_of_on (hcontrol.ioni.trans hon), hcontrol.pid, hcontrol.pie]
  refine highestBelow_of_bit_fourteen ?_ ?_
  · rw [← h15]
    simp
  · simp [hpie]

/-- Settles O45: the registers of the current level and of level 14, the request, and the level change that follows it. -/
theorem monitorCall : Obligations.MonitorCall := by
  unfold Obligations.MonitorCall
  intro n s
  exact .next (exec_mon n s)
    ⟨fun h => ⟨monState_cur_of_ne n s h, monState_lv_of_ne n s h⟩, monState_cur_of_eq n s,
      fun _ h14 hpil => monState_lv_ne n s h14 hpil, monState_control n s, fun _ => rfl, levelChange_monState n⟩

end Sys2Proof.Proofs
end

section
/-! PROOFS. Register operations (R340 to R359). -/

namespace Sys2Proof.Proofs

open Sys2Proof Sys2Proof.Machine

/-! ## Operands (R341) -/

theorem destOperand_eq (r : Regs) (dr : RegField) (cld : Bool) :
    destOperand r dr cld = if cld then 0 else r.operand dr := rfl

theorem sourceOperand_eq (r : Regs) (sr : RegField) (cm1 : Bool) :
    sourceOperand r sr cm1 = if cm1 then ~~~r.operand sr else r.operand sr := rfl

/-! ## RADD and its six names (R344 to R351) -/

section Addition

variable {adc ad1 cm1 cld : Bool} {sr dr : RegField} {s : State}

/-- ADC with AD1 is no operation (R115). -/
theorem addRegs_of_both (h : (adc && ad1) = true) : addRegs adc ad1 cm1 cld sr dr s = s.advance := if_pos h

/-- The carry that enters the adder (R344). -/
theorem addRegs_of_not_both (h : (adc && ad1) = false) :
    addRegs adc ad1 cm1 cld sr dr s =
      s.setCur ((s.cur.step.addFlags (adder (destOperand s.cur dr cld) (sourceOperand s.cur sr cm1)
          (if ad1 then true else adc && s.cur.sts.getLsbD 6))).setDest dr
        (adder (destOperand s.cur dr cld) (sourceOperand s.cur sr cm1)
          (if ad1 then true else adc && s.cur.sts.getLsbD 6)).res) := by
  have hc : (if adc then s.cur.flag .c else false) = (adc && s.cur.sts.getLsbD 6) := by cases adc <;> rfl
  rw [addRegs, if_neg (Bool.eq_false_iff.mp h), hc]

/-- No flag instruction touches a register. -/
theorem addFlags_operand (r : Regs) (x : AdderResult) {f : RegField} : (r.addFlags x).operand f = r.operand f := by
  cases f <;> simp [Regs.operand]

theorem writesRegister_adder (s : State) (dr : RegField) (d v : Word) (c : Bool) :
    WritesRegister s (s.setCur ((s.cur.step.addFlags (adder d v c)).setDest dr (adder d v c).res)) dr
      (d + v + BitVec.ofNat 16 c.toNat)
      (addStatus s.cur.sts (decide (65536 ≤ d.toNat + v.toNat + c.toNat)) (outOfRange (d.toInt + v.toInt + c.toNat))) := by
  rw [← adder_res, ← adder_carry, ← adder_ovf, ← Regs.step_sts, ← addFlags_sts]
  exact writesRegister_setDest s _ dr _ (by simp) fun f hf => by rw [addFlags_operand, step_operand _ hf]

theorem addsInto_of_exec {i : Instr} (h : exec i s = .next (addRegs adc ad1 cm1 cld sr dr s)) :
    AddsInto i s adc ad1 cm1 cld sr dr := by
  refine ⟨fun hboth => .next h ?_, fun hnot => .next h ?_⟩
  · rw [addRegs_of_both hboth]
    exact setsRegisters_advance s
  · rw [addRegs_of_not_both hnot]
    exact writesRegister_adder s dr _ _ _

end Addition

/-- A sum with zero in a word neither carries nor overflows. -/
theorem adder_zero (v : Word) : adder 0 v false = { res := v, carry := false, ovf := false } := by
  have hover : outOfRange v.toInt = false := by
    have hle := BitVec.le_toInt v
    have hlt := BitVec.toInt_lt (x := v)
    rw [outOfRange, decide_eq_false_iff_not]
    omega
  rw [AdderResult.mk.injEq, adder_res, adder_carry, adder_ovf]
  have hlt := v.isLt
  refine ⟨by simp, by simp; omega, by simpa using hover⟩

/-- Settles O39: each name is `RADD` with its fields; `EXIT` adds L to zero into P. -/
theorem registerAdditions : Obligations.RegisterAdditions := by
  unfold Obligations.RegisterAdditions
  intro adc ad1 cm1 cld sr dr s
  refine ⟨addsInto_of_exec rfl, addsInto_of_exec rfl, addsInto_of_exec rfl, addsInto_of_exec rfl, addsInto_of_exec rfl,
    addsInto_of_exec rfl, .next (t := addRegs false false false true .l .p s) rfl ?exit⟩
  case exit =>
    rw [addRegs_of_not_both rfl]
    refine setsRegisters_of_eq ?_
    rw [destOperand_eq, if_pos rfl, sourceOperand_eq, if_neg (by decide)]
    simp only [Bool.false_and, Bool.false_eq_true, if_false, adder_zero, addFlags_eq]
    rfl

/-! ## RAND, REXO, RORA and SWAP (R352 to R356) -/

theorem writesRegister_logicRegs (op : Word → Word → Word) (cm1 cld : Bool) (sr dr : RegField) (s : State) :
    WritesRegister s (logicRegs op cm1 cld sr dr s) dr
      (op (if cld then 0 else s.cur.operand dr) (if cm1 then ~~~s.cur.operand sr else s.cur.operand sr)) s.cur.sts :=
  writesRegister_setDest s s.cur.step dr _ rfl fun _ hf => step_operand _ hf

/-- The registers after `SWAP` (R355). -/
def swapped (r : Regs) (sr dr : RegField) (d v : Word) : Regs := (r.step.setDest sr d).setDest dr v

section Swap

variable (r : Regs) (sr dr : RegField) (d v : Word)

theorem swapped_sts : (swapped r sr dr d v).sts = r.sts := by simp [swapped]

theorem swapped_p : (swapped r sr dr d v).p = if dr = .p then v else if sr = .p then d else r.p + 1 := by
  have hp (q : Regs) : q.p = q.operand .p := rfl
  rw [hp, swapped, Regs.setDest_operand _ _ _ _ (by decide), Regs.setDest_operand _ _ _ _ (by decide), ← hp, Regs.step_p]
  simp only [eq_comm]

theorem swapped_operand {f : RegField} (hf : f ≠ .code0) (hfp : f ≠ .p) :
    (swapped r sr dr d v).operand f = if f = dr then v else if f = sr then d else r.operand f := by
  rw [swapped, Regs.setDest_operand _ _ _ _ hf, Regs.setDest_operand _ _ _ _ hf, step_operand _ hfp]

end Swap

/-- Settles O40: the three logical operations by their operator, `SWAP` by the two writes in their order. -/
theorem registerLogicAndSwap : Obligations.RegisterLogicAndSwap := by
  unfold Obligations.RegisterLogicAndSwap
  intro cm1 cld sr dr s d v
  refine ⟨.next rfl (writesRegister_logicRegs (fun d v => d &&& v) cm1 cld sr dr s),
    .next rfl (writesRegister_logicRegs (fun d v => d ^^^ v) cm1 cld sr dr s),
    .next rfl (writesRegister_logicRegs (fun d v => d ||| v) cm1 cld sr dr s),
    .next (t := s.setCur (swapped s.cur sr dr d v)) rfl ?swap⟩
  obtain ⟨hcur, hothers, hcontrol, hmem⟩ := setsRegisters_setCur s (swapped s.cur sr dr d v)
  rw [hcur]
  exact ⟨swapped_sts .., swapped_p .., fun f => swapped_operand s.cur sr dr d v, hothers, hcontrol, hmem⟩

end Sys2Proof.Proofs
end

section
/-! PROOFS. Products and quotients of registers (R357 to R359; decisions D17, D18; log 7). -/

namespace Sys2Proof.Proofs

open Sys2Proof Sys2Proof.Machine

/-! ## What RMPY and RDIV leave alone -/

/-- P advanced, A and D written, STS written in C, O, Q and Z alone, nothing else changed. -/
def WritesDouble (s t : State) : Prop :=
  t.cur = { s.cur with p := s.cur.p + 1, a := t.cur.a, d := t.cur.d, sts := t.cur.sts } ∧
    t.cur.sts.extractLsb' 0 3 = s.cur.sts.extractLsb' 0 3 ∧ t.cur.sts.getLsbD 7 = s.cur.sts.getLsbD 7 ∧
    SameOtherLevels s t ∧ SameControl s t ∧ SameMemory s t

/-- STS with C, O and Q drawn. -/
def drawnStatus (s : State) : Byte := (s.cur.drawFlags s).sts

theorem drawnStatus_bit (s : State) {j : Nat} (hj : j < 8) (hq : j ≠ 4) (ho : j ≠ 5) (hc : j ≠ 6) :
    (drawnStatus s).getLsbD j = s.cur.sts.getLsbD j := by
  have hsts : drawnStatus s = setBitTo (setBitTo (setBitTo s.cur.sts 6 (Config.freeBit s.draws)) 5
      (Config.freeBit (s.draws + 1))) 4 (Config.freeBit (s.draws + 2)) := rfl
  rw [hsts, setBitTo_bit _ _ _ _ hj, if_neg hq, setBitTo_bit _ _ _ _ hj, if_neg ho, setBitTo_bit _ _ _ _ hj, if_neg hc]

theorem writesDouble_setCur (s : State) (n : Nat) (a d : Word) {sts : Byte}
    (hsts : ∀ j, j < 8 → j ≠ 3 → j ≠ 4 → j ≠ 5 → j ≠ 6 → sts.getLsbD j = s.cur.sts.getLsbD j) :
    WritesDouble s ((s.drawn n).setCur { s.cur with p := s.cur.p + 1, a := a, d := d, sts := sts }) := by
  obtain ⟨hcur, hothers, hcontrol, hmem⟩ :=
    setsRegisters_drawn s n { s.cur with p := s.cur.p + 1, a := a, d := d, sts := sts }
  refine ⟨?registers, ?low, ?m, hothers, hcontrol, hmem⟩
  all_goals rw [hcur]
  case low =>
    refine BitVec.eq_of_getLsbD_eq fun j hj => ?_
    simp only [BitVec.getLsbD_extractLsb', hj, decide_true, Bool.true_and, Nat.zero_add]
    exact hsts j (by omega) (by omega) (by omega) (by omega) (by omega)
  case m => exact hsts 7 (by decide) (by decide) (by decide) (by decide) (by decide)

/-! ## Numbers in words and double words -/

theorem extract_append_extract (p : BitVec 32) : (p.extractLsb' 16 16 ++ p.extractLsb' 0 16 : BitVec 32) = p := by
  obtain ⟨a, d, rfl⟩ : ∃ (a d : Word), p = a ++ d := exists_append (m := 16) (n := 16) p
  rw [append_high, append_low]

/-- A word holds every number that is not out of range. -/
theorem toInt_ofInt_of_inRange {x : Int} (h : outOfRange x = false) : (BitVec.ofInt 16 x).toInt = x := by
  rw [outOfRange, decide_eq_false_iff_not] at h
  rw [BitVec.toInt_ofInt, Int.bmod_eq_of_le] <;> omega

/-- A double word holds the product of two words. -/
theorem toInt_ofInt_signedProduct (a b : Word) : (BitVec.ofInt 32 (signedProduct a b)).toInt = a.toInt * b.toInt := by
  have hbound (w : Word) : w.toInt.natAbs ≤ 2 ^ 15 := by
    have hle := BitVec.le_toInt w
    have hlt := BitVec.toInt_lt (x := w)
    omega
  have hproduct : (a.toInt * b.toInt).natAbs ≤ 2 ^ 15 * 2 ^ 15 := by
    rw [Int.natAbs_mul]
    exact Nat.mul_le_mul (hbound a) (hbound b)
  rw [signedProduct, BitVec.toInt_ofInt, Int.bmod_eq_of_le] <;> omega

/-- A remainder is smaller than its divisor, a word. -/
theorem outOfRange_tmod (n : Int) {v : Word} (hv : v.toInt ≠ 0) : outOfRange (n.tmod v.toInt) = false := by
  have hle := BitVec.le_toInt v
  have hlt := BitVec.toInt_lt (x := v)
  have hmod : (n.tmod v.toInt).natAbs < v.toInt.natAbs := by
    rw [Int.natAbs_tmod]
    exact Nat.mod_lt _ (Int.natAbs_pos.mpr hv)
  rw [outOfRange, decide_eq_false_iff_not]
  omega

/-! ## RMPY and RDIV -/

section Double

variable (sr dr : RegField) (s : State)

/-- The state after `RMPY`. -/
def rmpyState : State :=
  let p : BitVec 32 := BitVec.ofInt 32 (signedProduct (s.cur.operand sr) (s.cur.operand dr))
  (s.drawn 3).setCur
    { s.cur with p := s.cur.p + 1, a := p.extractLsb' 16 16, d := p.extractLsb' 0 16, sts := drawnStatus s }

theorem exec_rmpy : exec (.rmpy sr dr) s = .next (rmpyState sr dr s) := rfl

theorem rmpyState_product :
    ((rmpyState sr dr s).cur.a ++ (rmpyState sr dr s).cur.d : BitVec 32).toInt =
      (s.cur.operand sr).toInt * (s.cur.operand dr).toInt := by
  rw [rmpyState, State.setCur_cur, extract_append_extract, toInt_ofInt_signedProduct]

/-- The state after `RDIV` without overflow. -/
def rdivState : State :=
  (s.drawn 3).setCur
    { s.cur with
      p := s.cur.p + 1, a := BitVec.ofInt 16 ((doubleAcc s.cur).tdiv (s.cur.operand sr).toInt)
      d := BitVec.ofInt 16 ((doubleAcc s.cur).tmod (s.cur.operand sr).toInt), sts := drawnStatus s }

/-- The state after `RDIV` with overflow. -/
def rdivOverflowState : State :=
  (s.drawn 5).setCur
    { s.cur with
      p := s.cur.p + 1, a := Config.freeWord (s.draws + 3), d := Config.freeWord (s.draws + 4)
      sts := setBitTo (drawnStatus s) 3 true }

theorem exec_rdiv : exec (.rdiv sr dr) s =
    .next (if divideOverflow (doubleAcc s.cur) (s.cur.operand sr).toInt then rdivOverflowState s else rdivState sr s) := by
  have hexec : exec (.rdiv sr dr) s =
      if divideOverflow (doubleAcc s.cur) (s.cur.operand sr).toInt then .next (rdivOverflowState s)
      else .next (rdivState sr s) := rfl
  rw [hexec]
  split <;> rfl

theorem divideOverflow_iff (n v : Int) : divideOverflow n v = true ↔ v = 0 ∨ outOfRange (n.tdiv v) = true := by
  simp only [divideOverflow, outOfRange, Bool.or_eq_true, decide_eq_true_eq, or_assoc]

theorem writesDouble_rdivState : WritesDouble s (rdivState sr s) :=
  writesDouble_setCur s 3 _ _ fun _ hj _ hq ho hc => drawnStatus_bit s hj hq ho hc

theorem rdivState_z : (rdivState sr s).cur.sts.getLsbD 3 = s.cur.sts.getLsbD 3 := by
  rw [rdivState, State.setCur_cur]
  exact drawnStatus_bit s (by decide) (by decide) (by decide) (by decide)

theorem rdivState_a (h : outOfRange ((doubleAcc s.cur).tdiv (s.cur.operand sr).toInt) = false) :
    (rdivState sr s).cur.a.toInt = (doubleAcc s.cur).tdiv (s.cur.operand sr).toInt := by
  rw [rdivState, State.setCur_cur, toInt_ofInt_of_inRange h]

theorem rdivState_d (h : (s.cur.operand sr).toInt ≠ 0) :
    (rdivState sr s).cur.d.toInt = (doubleAcc s.cur).tmod (s.cur.operand sr).toInt := by
  rw [rdivState, State.setCur_cur, toInt_ofInt_of_inRange (outOfRange_tmod _ h)]

theorem writesDouble_rdivOverflowState : WritesDouble s (rdivOverflowState s) :=
  writesDouble_setCur s 5 _ _ fun _ hj hz hq ho hc => by
    rw [setBitTo_bit _ _ _ _ hj, if_neg hz, drawnStatus_bit s hj hq ho hc]

theorem rdivOverflowState_z : (rdivOverflowState s).cur.sts.getLsbD 3 = true := by
  rw [rdivOverflowState, State.setCur_cur, setBitTo_bit _ _ _ _ (by decide), if_pos rfl]

end Double

/-! ## MIX3 -/

theorem mix3_eq (a : Word) : (a - 1) * 3 = BitVec.ofInt 16 ((a.toInt - 1) * 3) := by
  rw [BitVec.ofInt_mul, Int.sub_eq_add_neg, BitVec.ofInt_add, BitVec.ofInt_toInt, BitVec.sub_eq_add_neg]
  rfl

/-- Settles O41: the product in a double word, the quotient and the remainder in words, and the two states of `RDIV`. -/
theorem registerProducts : Obligations.RegisterProducts := by
  unfold Obligations.RegisterProducts
  intro sr dr s frame n v
  refine ⟨.next (exec_rmpy sr dr s) ⟨?rmpyFrame, ?rmpyZ, rmpyState_product sr dr s⟩, ?rdiv, ?mix3⟩
  case rmpyFrame => exact writesDouble_setCur s 3 _ _ fun _ hj _ hq ho hc => drawnStatus_bit s hj hq ho hc
  case rmpyZ =>
    rw [rmpyState, State.setCur_cur]
    exact drawnStatus_bit s (by decide) (by decide) (by decide) (by decide)
  case rdiv =>
    refine .next (exec_rdiv sr dr s) ?_
    split
    case isTrue hover =>
      have hcase := (divideOverflow_iff _ _).mp hover
      refine ⟨writesDouble_rdivOverflowState s, fun ⟨hv, hin⟩ => ?_, fun _ => rdivOverflowState_z s⟩
      exact absurd hcase (not_or.mpr ⟨hv, Bool.eq_false_iff.mp hin⟩)
    case isFalse hfits =>
      obtain ⟨hv, hin⟩ := not_or.mp (hfits ∘ (divideOverflow_iff _ _).mpr)
      exact ⟨writesDouble_rdivState sr s,
        fun _ => ⟨rdivState_z sr s, rdivState_a sr s (Bool.eq_false_iff.mpr hin), rdivState_d sr s hv⟩,
        fun hcase => absurd hcase (not_or.mpr ⟨hv, hin⟩)⟩
  case mix3 =>
    rw [← mix3_eq]
    exact .next rfl (setsRegisters_setCur s _)

end Sys2Proof.Proofs
end

section
/-! PROOFS. Sequencing (R380 to R390), the skip instruction (R403 to R406), and the version, the illegal `IOT` and the customer
instruction (R430, R431). -/

namespace Sys2Proof.Proofs

open Sys2Proof Sys2Proof.Machine

/-! ## Conditional jumps (R380 to R388) -/

/-- A jump writes P alone. -/
theorem jumpIf_eq (r : Regs) (c : Bool) (disp : Byte) :
    jumpIf r c disp = { r with p := if c then r.p + disp.signExtend 16 else r.p + 1 } := by
  cases c <;> rfl

theorem completes_jump {i : Instr} {s : State} {r : Regs} {c : Bool} {cond : Prop} [Decidable cond] {disp : Byte}
    (h : exec i s = .next (s.setCur (jumpIf r c disp))) (hc : c = true ↔ cond) :
    Completes i s fun t => SetsRegisters s t { r with p := if cond then r.p + disp.signExtend 16 else r.p + 1 } := by
  refine .next h (setsRegisters_of_eq ?_)
  rw [jumpIf_eq]
  simp only [hc]

theorem msb_iff_neg (v : Word) : v.msb = true ↔ v.toInt < 0 := by rw [BitVec.msb_eq_toInt, decide_eq_true_iff]

/-- Zero is positive only under the parameter of decision D49. -/
theorem positive_iff (s : State) (v : Word) :
    positive s v = true ↔ 0 < v.toInt ∨ v = 0 ∧ s.params.japZeroJumps = true := by
  have hzero : v = 0 ↔ v.toInt = 0 := by rw [← BitVec.toInt_inj]; rfl
  have hnonneg : (!v.msb) = true ↔ 0 ≤ v.toInt := by
    rw [Bool.not_eq_true', Bool.eq_false_iff, ne_eq, msb_iff_neg, not_lt]
  rw [positive, Bool.and_eq_true, Bool.or_eq_true, bne_iff_ne, hnonneg, ne_eq, hzero]
  by_cases h : v.toInt = 0
  · simp [h]
  · simp only [h, not_false_eq_true, true_or, and_true, false_and, or_false]
    omega

/-- Settles O50: each condition as the sign or the zero of A or of X. -/
theorem conditionalJumps : Obligations.ConditionalJumps := by
  unfold Obligations.ConditionalJumps
  intro disp s next x1
  exact ⟨completes_jump rfl (positive_iff s _), completes_jump rfl (msb_iff_neg _), completes_jump rfl beq_iff_eq,
    completes_jump rfl bne_iff_ne, completes_jump (r := { s.cur with x := x1 }) rfl (positive_iff s x1),
    completes_jump (r := { s.cur with x := x1 }) rfl (msb_iff_neg x1), completes_jump rfl beq_iff_eq,
    completes_jump rfl (msb_iff_neg _)⟩

/-! ## JMP and JPL (R389, R390) -/

section Jumps

variable (m : MemOperand) (s : State)

theorem exec_jmp : exec (.jmp m) s = finish do
    let ea ← effAddr s m
    return s.setCur { s.cur with p := ea } := rfl

theorem exec_jpl : exec (.jpl m) s = finish do
    let ea ← effAddr s m
    return s.setCur { s.cur with l := s.cur.p + 1, p := ea } := rfl

end Jumps

/-- Settles O51: the two words, and either answer of the effective address. -/
theorem jumpAndLink : Obligations.JumpAndLink := by
  unfold Obligations.JumpAndLink
  intro m s
  refine ⟨encodeMem_toNat 21 m, encodeMem_toNat 23 m, fun ea hea => ⟨?jmp, ?jpl⟩, fun f hea => ⟨?jmpFault, ?jplFault⟩⟩
  case jmp => exact .ok (exec_jmp m s) (by rw [hea]; rfl) (setsRegisters_setCur s _)
  case jpl => exact .ok (exec_jpl m s) (by rw [hea]; rfl) (setsRegisters_setCur s _)
  case jmpFault => rw [exec_jmp, hea, error_bind, finish_error]
  case jplFault => rw [exec_jpl, hea, error_bind, finish_error]

/-! ## The conditions of SKP (R403, R404) -/

theorem encode_skp_toNat (o : Opcodes) (cond : SkipCond) (sr dr : RegField) :
    (encode o (.skp cond sr dr)).toNat = 0o140000 + 0o400 * cond.bits.toNat + 8 * sr.bits.toNat + dr.bits.toNat := by
  have hword : (encode o (.skp cond sr dr)).toNat =
      24 * 2048 + (cond.bits ++ 0#2).toNat * 64 + (pair33 sr.bits dr.bits).toNat := toNat_keyField 24#5 _ _
  have hkey : (cond.bits ++ 0#2).toNat = cond.bits.toNat * 2 ^ 2 + 0 := toNat_append_eq cond.bits 0#2
  have hregs : (pair33 sr.bits dr.bits).toNat = sr.bits.toNat * 2 ^ 3 + dr.bits.toNat := toNat_append_eq _ _
  omega

theorem compareWords_carry (d s : Word) : (compareWords d s).c = decide (s.toNat ≤ d.toNat) := by
  have hcarry : (compareWords d s).c = (adder d (~~~s) true).carry := rfl
  rw [hcarry, adder_complement]

/-- The overflow of the comparison is the signed overflow of the subtraction. -/
theorem compareWords_overflow (d s : Word) : (compareWords d s).o = outOfRange (d.toInt - s.toInt) := by
  have hadder : (adder d (~~~s) true).ovf =
      ((d.msb == (~~~s).msb) && ((adder d (~~~s) true).res.msb != d.msb)) := rfl
  have hsign : (d.msb == (~~~s).msb) = (d.msb != s.msb) := by
    rw [BitVec.msb_not]
    cases d.msb <;> cases s.msb <;> rfl
  have hovf : (compareWords d s).o = (adder d (~~~s) true).ovf := by
    rw [hadder, hsign]
    rfl
  rw [hovf, adder_complement]

/-- Without overflow the sign alone decides the signed order. -/
theorem skipHolds_geq_of_no_overflow {f : Comparand} (h : f.o = false) : skipHolds .geq f = skipHolds .gre f := by
  simp [skipHolds, h]

theorem skipHolds_lss_of_no_overflow {f : Comparand} (h : f.o = false) : skipHolds .lss f = skipHolds .lst f := by
  simp [skipHolds, h]

/-- Settles O53: the key of the word, the relations, and `GEQ` and `LSS` as `GRE` and `LST` without overflow. -/
theorem skipConditions : Obligations.SkipConditions := by
  unfold Obligations.SkipConditions
  refine ⟨fun o sr dr c hc => ?encoding, skipHolds_iff, fun d s => ⟨compareWords_overflow d s, fun ho => ⟨?geq, ?lss⟩⟩⟩
  case encoding =>
    rw [encode_skp_toNat]
    simp only [List.mem_cons, List.not_mem_nil, or_false] at hc
    obtain rfl | rfl | rfl | rfl | rfl | rfl | rfl | rfl := hc <;> rfl
  case geq =>
    rw [← skipHolds_iff, skipHolds_geq_of_no_overflow ho, skipHolds_iff]
    rfl
  case lss =>
    rw [← skipHolds_iff, skipHolds_lss_of_no_overflow ho, skipHolds_iff]
    rfl

/-! ## The effect of SKP (R405, R406) -/

/-- STS after `SKP` (decision D7). -/
theorem skipFlags_eq (s : State) (r : Regs) (d v : Word) :
    skipFlags s (compareWords d v) r =
      { r with
        sts := if s.params.skpWritesSts then
            addStatus r.sts (decide (v.toNat ≤ d.toNat)) (outOfRange (d.toInt - v.toInt))
          else r.sts } := by
  unfold skipFlags
  split
  case isFalse => rfl
  case isTrue =>
    have hadd : (r.setFlag .c (compareWords d v).c).setOverflow (compareWords d v).o =
        r.addFlags { res := 0, carry := (compareWords d v).c, ovf := (compareWords d v).o } := rfl
    rw [hadd, addFlags_eq, compareWords_carry, compareWords_overflow]

theorem exec_skp (cond : SkipCond) (sr dr : RegField) (s : State) :
    exec (.skp cond sr dr) s = .next (s.setCur
      (skipFlags s (compareWords (s.cur.operand dr) (s.cur.operand sr))
        (s.cur.skipIf (skipHolds cond (compareWords (s.cur.operand dr) (s.cur.operand sr)))))) := rfl

/-- Settles O54: P by the relation, STS by the parameter, no other register. -/
theorem skipEffect : Obligations.SkipEffect := by
  unfold Obligations.SkipEffect
  intro cond sr dr s d v
  refine .next (exec_skp cond sr dr s) ⟨_, setsRegisters_setCur s _, ?_⟩
  rw [skipFlags_eq, skipIf_eq]
  exact ⟨rfl, fun h => if_pos ((skipHolds_iff cond d v).mpr h), fun h => if_neg (h ∘ (skipHolds_iff cond d v).mp),
    fun hparam => if_neg (Bool.eq_false_iff.mp hparam), fun hparam => if_pos hparam⟩

/-! ## VERSN, IOT and GECO (R113, R430, R431) -/

/-- The state after `VERSN`: bits 15-8 of D are drawn (log 7). -/
def versnState (s : State) : State :=
  (s.drawn 1).setCur { s.cur with
    p := s.cur.p + 1, a := Config.versionA, t := Config.versionT
    d := joinBytes (leftByte s.freeWord) (Config.installation (s.cur.a.extractLsb' 8 4)) }

theorem exec_versn (s : State) : exec .versn s =
    match s.params.cpuModel with
    | .nd100 => .fault (.illegalInstruction s.params.opcodes.versn)
    | .nd110 => .next (versnState s) := rfl

theorem encode_iot (o : Opcodes) (addr : BitVec 11) : encode o (.iot addr) = BitVec.ofNat 16 (0o160000 + addr.toNat) :=
  eq_ofNat_of_toNat (toNat_opField 28#5 addr)

theorem exec_iot (addr : BitVec 11) (s : State) :
    exec (.iot addr) s = .fault (.illegalInstruction (encode s.params.opcodes (.iot addr))) := rfl

/-- Settles O58: `VERSN` on each CPU model, the word of `IOT`, and the refusal of `GECO`. -/
theorem versionAndStops : Obligations.VersionAndStops := by
  unfold Obligations.VersionAndStops
  intro s
  refine ⟨fun hcpu => ?nd110, fun hcpu => ?nd100, fun addr => ?iot, rfl⟩
  case nd110 =>
    have hset := setsRegisters_drawn s 1 (versnState s).cur
    have hcur : (versnState s).cur = _ := State.setCur_cur _ _
    rw [hcur] at hset
    refine .next (t := versnState s) (by rw [exec_versn, hcpu]) ⟨?_, ?_⟩
    · rw [hcur]
      exact hset
    · rw [hcur]
      exact append_low _ _
  case nd100 => rw [exec_versn, hcpu]
  case iot => rw [exec_iot, encode_iot]

end Sys2Proof.Proofs
end

section
/-! PROOFS. The shifts (R395 to R399, decision D19). A shift is one place at a time, so that each closed form is the one-place form
taken n times. -/

namespace Sys2Proof.Proofs

open Sys2Proof Sys2Proof.Machine

/-! ## A step taken n times -/

theorem iterate_succ_last {α : Type} (f : α → α) (n : Nat) : ∀ x, iterate f (n + 1) x = f (iterate f n x) := by
  induction n with
  | zero => exact fun _ => rfl
  | succ n ih => exact fun x => ih (f x)

/-- Where `f` acts on the image `g` as `h 1`, and `h` adds up, n steps act on it as `h n`. -/
theorem iterate_image {α β : Type} {f : α → α} {g : α → β} {h : Nat → β → β} (hzero : ∀ b, h 0 b = b)
    (hsucc : ∀ n b, h (n + 1) b = h 1 (h n b)) (hstep : ∀ x, g (f x) = h 1 (g x)) (n : Nat) (x : α) :
    g (iterate f n x) = h n (g x) := by
  induction n with
  | zero => exact (hzero _).symm
  | succ n ih =>
    calc g (iterate f (n + 1) x) = g (f (iterate f n x)) := by rw [iterate_succ_last]
      _ = h 1 (h n (g x)) := by rw [hstep, ih]
      _ = h (n + 1) (g x) := (hsucc n (g x)).symm

/-! ## Rotations add up -/

/-- Bit `j` comes to bit `i` by a rotation left through `n` of `w` places. -/
def RotatesTo (w n j i : Nat) : Prop := j + n % w = i ∨ j + n % w = i + w

section Rotations

variable {w n i j k : Nat} (x : BitVec w)

theorem exists_rotatesTo (n : Nat) (hi : i < w) : ∃ j, j < w ∧ RotatesTo w n j i := by
  have hn := Nat.mod_lt n (Nat.zero_lt_of_lt hi)
  by_cases h : n % w ≤ i
  · exact ⟨i - n % w, by omega, .inl (by omega)⟩
  · exact ⟨i + w - n % w, by omega, .inr (by omega)⟩

theorem exists_rotatedFrom (n : Nat) (hj : j < w) : ∃ i, i < w ∧ RotatesTo w n j i := by
  have hn := Nat.mod_lt n (Nat.zero_lt_of_lt hj)
  by_cases h : j + n % w < w
  · exact ⟨j + n % w, h, .inl rfl⟩
  · exact ⟨j + n % w - w, by omega, .inr (by omega)⟩

theorem rotatesTo_add {a b : Nat} (hjk : RotatesTo w a j k) (hki : RotatesTo w b k i) (hj : j < w) (hi : i < w) :
    RotatesTo w (a + b) j i := by
  have ha := Nat.mod_lt a (Nat.zero_lt_of_lt hj)
  have hb := Nat.mod_lt b (Nat.zero_lt_of_lt hj)
  have hmod : (a + b) % w = if a % w + b % w < w then a % w + b % w else a % w + b % w - w := by
    rw [Nat.add_mod_eq_ite]
    split <;> split <;> omega
  rw [RotatesTo] at hjk hki ⊢
  rw [hmod]
  split <;> omega

theorem getLsbD_rotateLeft (hi : i < w) (hj : j < w) (h : RotatesTo w n j i) :
    (x.rotateLeft n).getLsbD i = x.getLsbD j := by
  have hn := Nat.mod_lt n (Nat.zero_lt_of_lt hi)
  rw [BitVec.getLsbD_rotateLeft]
  rcases h with h | h
  · rw [decide_eq_false (by omega), cond_false, decide_eq_true hi, Bool.true_and]
    congr 1
    omega
  · rw [decide_eq_true (by omega), cond_true]
    congr 1
    omega

theorem getLsbD_rotateRight (hi : i < w) (hj : j < w) (h : RotatesTo w n i j) :
    (x.rotateRight n).getLsbD i = x.getLsbD j := by
  have hn := Nat.mod_lt n (Nat.zero_lt_of_lt hi)
  rw [BitVec.getLsbD_rotateRight]
  rcases h with h | h
  · rw [decide_eq_true (by omega), cond_true]
    congr 1
    omega
  · rw [decide_eq_false (by omega), cond_false, decide_eq_true hi, Bool.true_and]
    congr 1
    omega

theorem rotatesTo_zero : RotatesTo w 0 i i := .inl (by rw [Nat.zero_mod, Nat.add_zero])

theorem rotateLeft_zero : x.rotateLeft 0 = x :=
  BitVec.eq_of_getLsbD_eq fun _ hi => getLsbD_rotateLeft x hi hi rotatesTo_zero

theorem rotateRight_zero : x.rotateRight 0 = x :=
  BitVec.eq_of_getLsbD_eq fun _ hi => getLsbD_rotateRight x hi hi rotatesTo_zero

theorem rotateLeft_succ (n : Nat) : x.rotateLeft (n + 1) = (x.rotateLeft n).rotateLeft 1 := by
  refine BitVec.eq_of_getLsbD_eq fun i hi => ?_
  obtain ⟨k, hk, hki⟩ := exists_rotatesTo 1 hi
  obtain ⟨j, hj, hjk⟩ := exists_rotatesTo n hk
  rw [getLsbD_rotateLeft _ hi hk hki, getLsbD_rotateLeft _ hk hj hjk,
    getLsbD_rotateLeft _ hi hj (rotatesTo_add hjk hki hj hi)]

theorem rotateRight_succ (n : Nat) : x.rotateRight (n + 1) = (x.rotateRight n).rotateRight 1 := by
  refine BitVec.eq_of_getLsbD_eq fun i hi => ?_
  obtain ⟨k, hk, hik⟩ := exists_rotatedFrom 1 hi
  obtain ⟨j, hj, hkj⟩ := exists_rotatedFrom n hk
  rw [getLsbD_rotateRight _ hi hk hik, getLsbD_rotateRight _ hk hj hkj,
    getLsbD_rotateRight _ hi hj (Nat.add_comm 1 n ▸ rotatesTo_add hik hkj hi hj)]

end Rotations

/-! ## One place (R395) -/

/-- M and the value as one bit vector, M in front. -/
def linked {w : Nat} (x : Shifted w) : BitVec (1 + w) := BitVec.ofBool x.m ++ x.v

/-- The bit that comes in at the right end of a shift left. -/
def leftIn {w : Nat} (ty : ShiftType) (x : Shifted w) : Bool :=
  match ty with
  | .rot => x.v.getLsbD (w - 1)
  | .lin => x.m
  | .arith | .zin => false

/-- The bit that comes in at the left end of a shift right. -/
def rightIn {w : Nat} (ty : ShiftType) (x : Shifted w) : Bool :=
  match ty with
  | .arith => x.v.getLsbD (w - 1)
  | .rot => x.v.getLsbD 0
  | .lin => x.m
  | .zin => false

section OnePlace

variable {w i : Nat} (x : Shifted w)

theorem linked_bit (hi : i < w) : (linked x).getLsbD i = x.v.getLsbD i := by
  rw [linked, BitVec.getLsbD_append, if_pos hi]

theorem linked_bit_last : (linked x).getLsbD w = x.m := by
  rw [linked, BitVec.getLsbD_append, if_neg (Nat.lt_irrefl w), Nat.sub_self]
  simp

theorem shiftLeftOne_bit (ty : ShiftType) (hi : i < w) :
    (shiftLeftOne ty x).v.getLsbD i = if i = 0 then leftIn ty x else x.v.getLsbD (i - 1) := by
  have hv : (shiftLeftOne ty x).v = setBitTo (x.v <<< 1) 0 (leftIn ty x) := by cases ty <;> rfl
  rw [hv, setBitTo_bit _ _ _ _ hi, BitVec.getLsbD_shiftLeft]
  split
  case isTrue => rfl
  case isFalse h => simp [hi, h]

theorem shiftRightOne_bit (ty : ShiftType) (hi : i < w) :
    (shiftRightOne ty x).v.getLsbD i = if i = w - 1 then rightIn ty x else x.v.getLsbD (i + 1) := by
  have hv : (shiftRightOne ty x).v = setBitTo (x.v >>> 1) (w - 1) (rightIn ty x) := by cases ty <;> rfl
  rw [hv, setBitTo_bit _ _ _ _ hi, BitVec.getLsbD_ushiftRight, Nat.add_comm 1 i]

theorem rotatesTo_one_zero (hw : 1 < w) : RotatesTo w 1 (w - 1) 0 := by
  rw [RotatesTo, Nat.mod_eq_of_lt hw]
  omega

theorem rotatesTo_one_succ (hw : 1 < w) : RotatesTo w 1 i (i + 1) := by
  rw [RotatesTo, Nat.mod_eq_of_lt hw]
  omega

/-- What a rotation left through one place does to the bits. -/
theorem rotateLeft_one_bit (v : BitVec w) (hw : 1 < w) (hi : i < w) :
    (v.rotateLeft 1).getLsbD i = if i = 0 then v.getLsbD (w - 1) else v.getLsbD (i - 1) := by
  cases i with
  | zero => exact getLsbD_rotateLeft v hi (by omega) (rotatesTo_one_zero hw)
  | succ i => exact getLsbD_rotateLeft v hi (by omega) (rotatesTo_one_succ hw)

/-- What a rotation right through one place does to the bits. -/
theorem rotateRight_one_bit (v : BitVec w) (hw : 1 < w) (hi : i < w) :
    (v.rotateRight 1).getLsbD i = if i = w - 1 then v.getLsbD 0 else v.getLsbD (i + 1) := by
  split
  case isTrue h => exact getLsbD_rotateRight v hi (by omega) (h ▸ rotatesTo_one_zero hw)
  case isFalse h => exact getLsbD_rotateRight v hi (by omega) (rotatesTo_one_succ hw)

theorem shiftLeftOne_rot (hw : 1 < w) : (shiftLeftOne .rot x).v = x.v.rotateLeft 1 :=
  BitVec.eq_of_getLsbD_eq fun i hi => by
    rw [shiftLeftOne_bit x .rot hi, rotateLeft_one_bit x.v hw hi]
    rfl

theorem shiftRightOne_rot (hw : 1 < w) : (shiftRightOne .rot x).v = x.v.rotateRight 1 :=
  BitVec.eq_of_getLsbD_eq fun i hi => by
    rw [shiftRightOne_bit x .rot hi, rotateRight_one_bit x.v hw hi]
    rfl

theorem linked_shiftLeftOne_lin (hw : 0 < w) : linked (shiftLeftOne .lin x) = (linked x).rotateLeft 1 :=
  BitVec.eq_of_getLsbD_eq fun i hi => by
    rw [rotateLeft_one_bit (linked x) (by omega) hi]
    by_cases hlast : i = w
    · subst hlast
      rw [linked_bit_last, if_neg (by omega), linked_bit x (by omega)]
      rfl
    · rw [linked_bit _ (by omega), shiftLeftOne_bit x .lin (by omega), Nat.add_sub_cancel_left, linked_bit_last]
      split
      · rfl
      · rw [linked_bit x (by omega)]

theorem linked_shiftRightOne_lin (hw : 0 < w) : linked (shiftRightOne .lin x) = (linked x).rotateRight 1 :=
  BitVec.eq_of_getLsbD_eq fun i hi => by
    rw [rotateRight_one_bit (linked x) (by omega) hi]
    by_cases hlast : i = w
    · rw [hlast, linked_bit_last, if_pos (by omega), linked_bit x hw]
      rfl
    · rw [linked_bit _ (by omega), shiftRightOne_bit x .lin (by omega), if_neg (c := i = 1 + w - 1) (by omega)]
      split
      case isTrue h =>
        have hw' : i + 1 = w := by omega
        rw [hw', linked_bit_last]
        rfl
      case isFalse h => rw [linked_bit x (by omega)]

theorem shiftLeftOne_of_zero_in {ty : ShiftType} (h : leftIn ty x = false) : (shiftLeftOne ty x).v = x.v <<< 1 :=
  BitVec.eq_of_getLsbD_eq fun i hi => by
    rw [shiftLeftOne_bit x ty hi, h, BitVec.getLsbD_shiftLeft]
    by_cases h0 : i = 0 <;> simp [h0, hi]

theorem shiftRightOne_zin : (shiftRightOne .zin x).v = x.v >>> 1 :=
  BitVec.eq_of_getLsbD_eq fun i hi => by
    rw [shiftRightOne_bit x .zin hi, BitVec.getLsbD_ushiftRight, Nat.add_comm 1 i]
    split
    case isTrue h => exact (BitVec.getLsbD_of_ge _ _ (by omega)).symm
    case isFalse => rfl

theorem shiftRightOne_arith : (shiftRightOne .arith x).v = x.v.sshiftRight 1 :=
  BitVec.eq_of_getLsbD_eq fun i hi => by
    rw [shiftRightOne_bit x .arith hi, BitVec.getLsbD_sshiftRight, decide_eq_false (by omega), Bool.not_false, Bool.true_and,
      Nat.add_comm 1 i]
    split
    case isTrue h =>
      rw [if_neg (by omega), BitVec.msb_eq_getLsbD_last]
      rfl
    case isFalse h => rw [if_pos (by omega)]

end OnePlace

/-! ## n places -/

section Places

variable {w : Nat} (n : Nat) (x : Shifted w)

theorem iterate_left_rot (hw : 1 < w) : (iterate (shiftLeftOne .rot) n x).v = x.v.rotateLeft n :=
  iterate_image (h := fun n v => BitVec.rotateLeft v n) rotateLeft_zero (fun n v => rotateLeft_succ v n)
    (fun y => shiftLeftOne_rot y hw) n x

theorem iterate_right_rot (hw : 1 < w) : (iterate (shiftRightOne .rot) n x).v = x.v.rotateRight n :=
  iterate_image (h := fun n v => BitVec.rotateRight v n) rotateRight_zero (fun n v => rotateRight_succ v n)
    (fun y => shiftRightOne_rot y hw) n x

theorem iterate_left_lin (hw : 0 < w) : linked (iterate (shiftLeftOne .lin) n x) = (linked x).rotateLeft n :=
  iterate_image (h := fun n v => BitVec.rotateLeft v n) rotateLeft_zero (fun n v => rotateLeft_succ v n)
    (fun y => linked_shiftLeftOne_lin y hw) n x

theorem iterate_right_lin (hw : 0 < w) : linked (iterate (shiftRightOne .lin) n x) = (linked x).rotateRight n :=
  iterate_image (h := fun n v => BitVec.rotateRight v n) rotateRight_zero (fun n v => rotateRight_succ v n)
    (fun y => linked_shiftRightOne_lin y hw) n x

theorem iterate_left_zero_in {ty : ShiftType} (h : ∀ y : Shifted w, leftIn ty y = false) :
    (iterate (shiftLeftOne ty) n x).v = x.v <<< n :=
  iterate_image (h := fun n (v : BitVec w) => v <<< n) BitVec.shiftLeft_zero (fun n v => BitVec.shiftLeft_add v n 1)
    (fun y => shiftLeftOne_of_zero_in y (h y)) n x

theorem iterate_right_zin : (iterate (shiftRightOne .zin) n x).v = x.v >>> n :=
  iterate_image (h := fun n (v : BitVec w) => v >>> n) BitVec.ushiftRight_zero (fun n v => BitVec.shiftRight_add v n 1)
    shiftRightOne_zin n x

theorem iterate_right_arith : (iterate (shiftRightOne .arith) n x).v = x.v.sshiftRight n :=
  iterate_image (h := fun n v => BitVec.sshiftRight v n) (fun _ => BitVec.sshiftRight_zero)
    (fun _ _ => BitVec.sshiftRight_add) shiftRightOne_arith n x

/-- M after a shift left is the bit that left the value last. -/
theorem iterate_left_m (ty : ShiftType) :
    (iterate (shiftLeftOne ty) (n + 1) x).m = (iterate (shiftLeftOne ty) n x).v.getLsbD (w - 1) := by
  rw [iterate_succ_last]
  rfl

/-- M after a shift right is the bit that left the value last. -/
theorem iterate_right_m (ty : ShiftType) :
    (iterate (shiftRightOne ty) (n + 1) x).m = (iterate (shiftRightOne ty) n x).v.getLsbD 0 := by
  rw [iterate_succ_last]
  rfl

theorem leftShifted_iterate (ty : ShiftType) (hw : 1 < w) :
    LeftShifted ty (n + 1) x.v x.m (iterate (shiftLeftOne ty) (n + 1) x).v (iterate (shiftLeftOne ty) (n + 1) x).m := by
  cases ty with
  | rot =>
    refine ⟨iterate_left_rot (n + 1) x hw, ?_⟩
    rw [iterate_succ_last, shiftLeftOne_bit _ _ (Nat.zero_lt_of_lt hw)]
    rfl
  | lin => exact iterate_left_lin (n + 1) x (Nat.zero_lt_of_lt hw)
  | arith | zin =>
    refine ⟨iterate_left_zero_in (n + 1) x fun _ => rfl, ?_⟩
    rw [iterate_left_m, iterate_left_zero_in n x fun _ => rfl, Nat.add_sub_cancel]

theorem rightShifted_iterate (ty : ShiftType) (hw : 1 < w) :
    RightShifted ty (n + 1) x.v x.m (iterate (shiftRightOne ty) (n + 1) x).v (iterate (shiftRightOne ty) (n + 1) x).m := by
  cases ty with
  | rot =>
    refine ⟨iterate_right_rot (n + 1) x hw, ?_⟩
    rw [iterate_succ_last, shiftRightOne_bit _ _ (by omega), if_pos rfl]
    rfl
  | lin => exact iterate_right_lin (n + 1) x (Nat.zero_lt_of_lt hw)
  | arith =>
    refine ⟨iterate_right_arith (n + 1) x, ?_⟩
    rw [iterate_right_m, iterate_right_arith, Nat.add_sub_cancel]
  | zin =>
    refine ⟨iterate_right_zin (n + 1) x, ?_⟩
    rw [iterate_right_m, iterate_right_zin, Nat.add_sub_cancel]

end Places

/-! ## The signed count (R106) -/

section Counts

variable {w : Nat} (ty : ShiftType) {count : BitVec 6} (x : Shifted w)

theorem shift_of_zero (h : count.toInt = 0) : shift ty count x = x := by
  obtain rfl : count = 0 := BitVec.eq_of_toInt_eq h
  rfl

theorem shift_of_pos (h : 0 < count.toInt) : shift ty count x = iterate (shiftLeftOne ty) count.toInt.toNat x := by
  have hmsb : count.msb = false := by rw [BitVec.msb_eq_toInt, decide_eq_false_iff_not]; omega
  rw [shift, hmsb, if_neg Bool.false_ne_true, BitVec.toInt_eq_toNat_of_msb hmsb, Int.toNat_natCast]

theorem shift_of_neg (h : count.toInt < 0) : shift ty count x = iterate (shiftRightOne ty) (-count.toInt).toNat x := by
  have hmsb : count.msb = true := by rw [BitVec.msb_eq_toInt, decide_eq_true_iff]; exact h
  have habs : count.toInt.natAbs = (-count.toInt).toNat := by omega
  rw [shift, hmsb, if_pos rfl, habs]

theorem shiftedBy_shift (count : BitVec 6) (hw : 1 < w) :
    ShiftedBy ty count x.v x.m (shift ty count x).v (shift ty count x).m := by
  refine ⟨fun h => ?zero, fun h => ?left, fun h => ?right⟩
  case zero => rw [shift_of_zero ty x h]; exact ⟨rfl, rfl⟩
  case left =>
    obtain ⟨n, hn⟩ : ∃ n, count.toInt.toNat = n + 1 := Nat.exists_eq_succ_of_ne_zero (by omega)
    rw [shift_of_pos ty x h, hn]
    exact leftShifted_iterate n x ty hw
  case right =>
    obtain ⟨n, hn⟩ : ∃ n, (-count.toInt).toNat = n + 1 := Nat.exists_eq_succ_of_ne_zero (by omega)
    rw [shift_of_neg ty x h, hn]
    exact rightShifted_iterate n x ty hw

end Counts

theorem setBitTo_seven_eq_withM : ∀ (sts : Byte) (v : Bool), setBitTo sts 7 v = withM sts v := by decide

theorem setM_eq (r : Regs) (v : Bool) : r.step.setFlag .m v = { r with p := r.p + 1, sts := withM r.sts v } := by
  rw [← setBitTo_seven_eq_withM]
  rfl

/-- Settles O52: the three shifts of a word and the shift of A and D as one double word. -/
theorem shiftsInClosedForm : Obligations.ShiftsInClosedForm := by
  unfold Obligations.ShiftsInClosedForm
  intro ty count s m
  have hword (v : Word) := shiftedBy_shift ty { v := v, m := m } count (by decide)
  refine ⟨.next rfl ⟨_, _, hword s.cur.t, ?sht⟩, .next rfl ⟨_, _, hword s.cur.d, ?shd⟩,
    .next rfl ⟨_, _, hword s.cur.a, ?sha⟩,
    .next rfl ⟨_, _, _, _, shiftedBy_shift ty { v := s.cur.a ++ s.cur.d, m := m } count (by decide),
      (extract_append_extract _).symm, ?sad⟩⟩
  all_goals
    refine setsRegisters_of_eq ?_
    rw [setM_eq]
    rfl

end Sys2Proof.Proofs
end

section
/-! PROOFS. The stack instructions (R410 to R415; decisions D50 to D52) and floating point (R420 to R426, R262, R263). -/

namespace Sys2Proof.Proofs

open Sys2Proof Sys2Proof.Machine

/-! ## ENTR and INIT (R412, R413) -/

section Frames

variable {s : State} {q1 q2 q3 q4 : PhysAddr}

theorem stackOverflow_of_exceedsSmax {p : Params} (h : p.stackTest = .exceedsSmax) (stp : Nat) (smax : Word) :
    stackOverflow p stp smax = decide (smax.toNat < stp) := by
  rw [stackOverflow, h]

theorem completes_entr {demand oldStp smax : Word} (hwf : s.mem.wf = true)
    (hdemand : memRead s (s.cur.p + 1) = .ok demand) (hstp : memRead s (frameAddr s.cur.b 0o176) = .ok oldStp)
    (hsmax : memRead s (frameAddr s.cur.b 0o175) = .ok smax)
    (h1 : locate s (frameAddr (oldStp + 0o200) 0o177) .write = .ok q1)
    (h2 : locate s (frameAddr (oldStp + 0o200) 0o175) .write = .ok q2)
    (h3 : locate s (frameAddr (oldStp + 0o200) 0o200) .write = .ok q3)
    (h4 : locate s (frameAddr (oldStp + 0o200) 0o176) .write = .ok q4) :
    Completes .entr s fun t => SetsAndStores s t
      { s.cur with
        b := oldStp + 0o200
        p := s.cur.p + if stackOverflow s.params ((oldStp + 0o200).toNat + demand.toNat) smax then 2 else 3 }
      [(q1, s.cur.b), (q2, smax), (q3, s.cur.l + 1), (q4, BitVec.ofNat 16 ((oldStp + 0o200).toNat + demand.toNat))] :=
  .ok rfl (by simp only [hdemand, hstp, hsmax, h1, h2, h3, h4, ok_bind, pure_ok]; rfl) (setsAndStores_of hwf rfl)

theorem exec_init_modelled (h : s.params.initModelled = true) : exec .init s = finish (initStack s) := if_pos h

theorem exec_init_refused (h : s.params.initModelled = false) :
    exec .init s = .refused (.unmodelledInstruction "INIT") := if_neg (Bool.eq_false_iff.mp h)

theorem completes_init {start size flag demand : Word} (hwf : s.mem.wf = true) (hmodelled : s.params.initModelled = true)
    (hstart : memRead s (s.cur.p + s.params.initLayout.start) = .ok start)
    (hsize : memRead s (s.cur.p + s.params.initLayout.size) = .ok size)
    (hflag : memRead s (s.cur.p + s.params.initLayout.flag) = .ok flag)
    (hdemand : memRead s (s.cur.p + s.params.initLayout.demand) = .ok demand)
    (h1 : locate s (frameAddr (start + 0o200) 0o200) .write = .ok q1)
    (h2 : locate s (frameAddr (start + 0o200) 0o177) .write = .ok q2)
    (h3 : locate s (frameAddr (start + 0o200) 0o175) .write = .ok q3)
    (h4 : locate s (frameAddr (start + 0o200) 0o176) .write = .ok q4) :
    Completes .init s fun t => SetsAndStores s t
      { s.cur with
        b := start + 0o200
        p := s.cur.p +
          if stackOverflow s.params ((start + 0o200).toNat + demand.toNat) (start + size) = true ∨
            Config.initFlagError flag = true then s.params.initLayout.errorReturn else s.params.initLayout.normal }
      [(q1, s.cur.l + 1), (q2, s.cur.b), (q3, start + size),
        (q4, BitVec.ofNat 16 ((start + 0o200).toNat + demand.toNat))] := by
  simp only [← Bool.or_eq_true]
  exact .ok (exec_init_modelled hmodelled)
    (by simp only [initStack, hstart, hsize, hflag, hdemand, h1, h2, h3, h4, ok_bind, pure_ok]; rfl)
    (setsAndStores_of hwf rfl)

/-! ## LEAVE and ELEAV (R414, R415) -/

theorem completes_leave {link prevb : Word} (hlink : memRead s (frameAddr s.cur.b 0o200) = .ok link)
    (hprevb : memRead s (frameAddr s.cur.b 0o177) = .ok prevb) :
    Completes .leave s fun t => SetsRegisters s t { s.cur with p := link, b := prevb } :=
  .ok rfl (by simp only [hlink, hprevb, ok_bind, pure_ok]) (setsRegisters_setCur s _)

theorem completes_eleav {link prevb : Word} (hwf : s.mem.wf = true)
    (hlink : memRead s (frameAddr s.cur.b 0o200) = .ok link) (hprevb : memRead s (frameAddr s.cur.b 0o177) = .ok prevb)
    (h1 : locate s (frameAddr s.cur.b 0o200) .write = .ok q1) (h2 : locate s (frameAddr prevb 0o173) .write = .ok q2) :
    Completes .eleav s fun t => SetsAndStores s t { s.cur with p := link - 1, b := prevb }
      [(q1, link - 1), (q2, s.cur.a)] :=
  .ok rfl (by simp only [hlink, hprevb, h1, h2, ok_bind, pure_ok]; rfl) (setsAndStores_of hwf rfl)

end Frames

/-- Settles O55: `ENTR`, `INIT` where it is modelled, and its refusal. -/
theorem stackFrameEntry : Obligations.StackFrameEntry := by
  unfold Obligations.StackFrameEntry
  intro s hwf
  refine ⟨stackOverflow_of_exceedsSmax, ?entr, ?init, exec_init_refused⟩
  case entr => exact fun demand oldStp smax q1 q2 q3 q4 => completes_entr hwf
  case init => exact fun start size flag demand q1 q2 q3 q4 => completes_init hwf

/-- Settles O56: the caller's frame is the one the old frame's PREVB names. -/
theorem stackFrameExit : Obligations.StackFrameExit := by
  unfold Obligations.StackFrameExit
  intro s link prevb hlink hprevb
  exact ⟨completes_leave hlink hprevb, fun q1 q2 hwf => completes_eleav hwf hlink hprevb⟩

/-! ## Floating point (R420 to R426) -/

/-- The meaning of `i` is to read the operand and to leave what `op` makes of it and the accumulator. -/
def AppliesOperation (i : Instr) (op : Bool → Bool → Acc → Acc → Acc × Bool) (s : State) (m : MemOperand) : Prop :=
  exec i s = finish do
    let y ← floatOperand s m
    return floatResult s (op s.params.float48 (s.cur.sts.getLsbD 1) (accOf s) y)

section Floating

variable {i : Instr} {op : Bool → Bool → Acc → Acc → Acc × Bool} {m : MemOperand} {s : State} {y : Acc}

/-- Z set on an error and else kept (R28). -/
theorem raiseZ_eq (r : Regs) (error : Bool) :
    r.raiseFlag .z error = { r with sts := if error then withZ r.sts true else r.sts } := by
  cases error
  · rfl
  · rw [if_pos rfl, ← setBitTo_three_eq_withZ]
    rfl

theorem floatResult_eq (s : State) (v : Acc × Bool) :
    floatResult s v = s.setCur
      { s.cur with
        p := s.cur.p + 1, t := if s.params.float48 then v.1.t else s.cur.t, a := v.1.a, d := v.1.d
        sts := if v.2 then withZ s.cur.sts true else s.cur.sts } := by
  rw [floatResult, raiseZ_eq]
  rfl

theorem AppliesOperation.completes (h : AppliesOperation i op s m) (hy : floatOperand s m = .ok y) :
    Completes i s fun t =>
      let v := op s.params.float48 (s.cur.sts.getLsbD 1) (accOf s) y
      SetsRegisters s t
        { s.cur with
          p := s.cur.p + 1, t := if s.params.float48 then v.1.t else s.cur.t, a := v.1.a, d := v.1.d
          sts := if v.2 then withZ s.cur.sts true else s.cur.sts } :=
  .ok h (by rw [hy]; rfl) (by rw [floatResult_eq]; exact setsRegisters_setCur s _)

theorem floatingStep_of_applies (h : AppliesOperation i op s m) : FloatingStep i op s m := by
  refine ⟨fun ea t0 a0 d0 hformat hea ht ha hd => ?float48, fun ea a0 d0 hformat hea ha hd => ?float32⟩
  case float48 =>
    have hdone := h.completes (floatOperand_of_float48 hformat hea ht ha hd)
    rw [accOf, hformat] at hdone
    exact hdone
  case float32 =>
    have hdone := h.completes (floatOperand_of_float32 hformat hea ha hd)
    rw [accOf, hformat] at hdone
    exact hdone

end Floating

/-! ## NLZ and DNZ (R262, R263) -/

section Conversions

variable (scale : Byte) (s : State)

theorem completes_nlz : Completes (.nlz scale) s fun t => SetsRegisters s t
    (if s.params.float48 then
      { s.cur with
        p := s.cur.p + 1, t := (Config.nlz48 s.cur.a scale).t, a := (Config.nlz48 s.cur.a scale).a
        d := (Config.nlz48 s.cur.a scale).d }
    else
      { s.cur with
        p := s.cur.p + 1, a := (Config.nlz32 s.cur.a scale).1, d := (Config.nlz32 s.cur.a scale).2 }) := by
  have hexec : exec (.nlz scale) s = execNlz scale s := rfl
  unfold execNlz at hexec
  split at hexec
  case isTrue hformat =>
    rw [if_pos hformat]
    exact .next hexec (setsRegisters_setCur s _)
  case isFalse hformat =>
    rw [if_neg hformat]
    exact .next hexec (setsRegisters_setCur s _)

/-- The registers after `DNZ` with `v` in T. -/
def dnzRegs (v : Word) : Regs :=
  { s.cur with
    p := s.cur.p + 1, a := (denormalised s scale).1, d := 0, t := v
    sts := if (denormalised s scale).2 then withZ s.cur.sts true else s.cur.sts }

/-- In the 48-bit format T is drawn (log 7). -/
theorem exec_dnz : exec (.dnz scale) s =
    .next (if s.params.float48 then (s.drawn 1).setCur (dnzRegs scale s s.freeWord)
      else s.setCur (dnzRegs scale s s.cur.t)) := by
  have hexec : exec (.dnz scale) s = execDnz scale s := rfl
  rw [hexec, execDnz]
  simp only [raiseZ_eq]
  split <;> rfl

theorem completes_dnz : Completes (.dnz scale) s fun t =>
    SetsRegisters s t (dnzRegs scale s (if s.params.float48 then t.cur.t else s.cur.t)) := by
  refine .next (exec_dnz scale s) ?_
  split
  case isTrue =>
    rw [State.setCur_cur]
    exact setsRegisters_drawn s 1 _
  case isFalse => exact setsRegisters_setCur s _

end Conversions

/-- Settles O57: the four operations by one lemma, then the two conversions. -/
theorem floatingPoint : Obligations.FloatingPoint := by
  unfold Obligations.FloatingPoint
  intro m scale s
  exact ⟨floatingStep_of_applies rfl, floatingStep_of_applies rfl, floatingStep_of_applies rfl,
    floatingStep_of_applies rfl, completes_nlz scale s, completes_dnz scale s⟩

end Sys2Proof.Proofs
end

section
/-! PROOFS. The word-block move `MOVEW` (R432; decision D53; logs 24, 33). -/

namespace Sys2Proof.Proofs

open Sys2Proof Sys2Proof.Machine

/-! ## The ends of a transfer type -/

/-- The number of an end in a transfer type. -/
def endNumber : BlockEnd → Nat
  | .pt => 0
  | .apt => 1
  | .physical => 2

theorem endNumber_eq_two {e : BlockEnd} : endNumber e = 2 ↔ e = .physical := by
  cases e <;> decide

theorem movewOk_iff (ty : BitVec 6) : movewOk ty = true ↔ ty.toNat ≤ 8 := by
  rw [movewOk, decide_eq_true_iff, BitVec.le_def]
  rfl

theorem endNumber_moveSource : ∀ ty : BitVec 6, ty.toNat ≤ 8 → endNumber (Machine.moveSource ty) = ty.toNat / 3 := by
  decide

theorem endNumber_moveDest : ∀ ty : BitVec 6, endNumber (Machine.moveDest ty) = ty.toNat % 3 := by
  decide

section Types

variable {ty : BitVec 6}

theorem moveSource_physical (hty : ty.toNat ≤ 8) : Machine.moveSource ty = .physical ↔ 6 ≤ ty.toNat := by
  rw [← endNumber_eq_two, endNumber_moveSource ty hty]
  omega

theorem moveDest_physical (ty : BitVec 6) : Machine.moveDest ty = .physical ↔ ty.toNat % 3 = 2 := by
  rw [← endNumber_eq_two, endNumber_moveDest]

theorem movePrivileged_iff (hty : ty.toNat ≤ 8) :
    movePrivileged ty = true ↔ 6 ≤ ty.toNat ∨ ty.toNat % 3 = 2 := by
  rw [movePrivileged, Bool.or_eq_true, beq_iff_eq, beq_iff_eq, moveSource_physical hty, moveDest_physical]

end Types

/-! ## Where a word of an end is (R432, log 33) -/

section Ends

variable {s : State} {hi lo : Word} {k : Nat} {kind : Access}

/-- A physical end counts through its bank and wraps at 2^24. -/
theorem physAddr_add_eq_moveAddr (hi lo : Word) (k : Nat) :
    physAddr hi lo + BitVec.ofNat 24 k = moveAddr true hi lo k := by
  rw [physAddr_eq_bankAddr, bankAddr, ← BitVec.ofNat_add]
  rfl

theorem endWord_of_logical {e : Nat} (he : e ≠ 2) : endWord s e hi lo k kind =
    if e = 1 ∧ s.poni = true ∧ s.cur.sts.getLsbD 0 = true then
      paged s (lo + BitVec.ofNat 16 k) kind (translateAlt s (lo + BitVec.ofNat 16 k) kind)
    else locate s (lo + BitVec.ofNat 16 k) kind := if_neg he

theorem locateEnd_eq_endWord (s : State) (e : BlockEnd) (hi lo : Word) (k : Nat) (kind : Access) :
    locateEnd s e hi lo k kind = endWord s (endNumber e) hi lo k kind := by
  cases e with
  | pt => rfl
  | physical =>
    have hlocate : locateEnd s .physical hi lo k kind = installed s (physAddr hi lo + BitVec.ofNat 24 k) := rfl
    rw [hlocate, physAddr_add_eq_moveAddr]
    rfl
  | apt =>
    have hcond : (s.poni && s.cur.flag .ptm) = true ↔
        endNumber .apt = 1 ∧ s.poni = true ∧ s.cur.sts.getLsbD 0 = true := by
      rw [Bool.and_eq_true]
      exact (and_iff_right rfl).symm
    rw [endWord_of_logical (e := endNumber .apt) (by decide)]
    exact if_congr hcond rfl rfl

theorem endWord_of_allReady (h : AllReady s) (e : Nat) :
    endWord s e hi lo k kind = .ok (moveAddr (decide (e = 2)) hi lo k) := by
  have hlogical : locate s (lo + BitVec.ofNat 16 k) kind = .ok (moveAddr false hi lo k) := by
    rw [locate_of_allReady h, BitVec.toNat_add, BitVec.toNat_ofNat, Nat.add_mod_mod]
    rfl
  by_cases he : e = 2
  · subst he
    exact if_pos (lt_physWords_of_allReady h _)
  · have halt : ¬(e = 1 ∧ s.poni = true ∧ s.cur.sts.getLsbD 0 = true) := fun ⟨_, hon, _⟩ => by
      rw [h.1] at hon
      cases hon
    rw [endWord_of_logical he, if_neg halt, hlogical, decide_eq_false he]

end Ends

/-! ## The moves, each word read just before it is written -/

section Moves

variable {s : State} {ty : BitVec 6} {from' to' : Nat → PhysAddr} {f : Fault} {k : Nat}

/-- Where word k of the source is. -/
def sourceWord (ty : BitVec 6) (s : State) (k : Nat) : Except Fault PhysAddr :=
  endWord s (ty.toNat / 3) s.cur.a s.cur.d k .read

/-- Where word k of the destination is. -/
def destWord (ty : BitVec 6) (s : State) (k : Nat) : Except Fault PhysAddr :=
  endWord s (ty.toNat % 3) s.cur.x s.cur.t k .write

/-- One word moved. -/
def moveOne (ty : BitVec 6) (s : State) (k : Nat) (mem : Memory) : Except Fault Memory :=
  moveWord s (Machine.moveSource ty) (Machine.moveDest ty) k mem

theorem moveOne_eq (hty : ty.toNat ≤ 8) (k : Nat) (mem : Memory) : moveOne ty s k mem = do
    let from' ← sourceWord ty s k
    let to' ← destWord ty s k
    return mem.writeWord to' (mem.readWord from') := by
  rw [sourceWord, destWord, ← endNumber_moveSource ty hty, ← endNumber_moveDest, ← locateEnd_eq_endWord,
    ← locateEnd_eq_endWord]
  rfl

theorem moveOne_ok {pa pb : PhysAddr} (hty : ty.toNat ≤ 8) (hsource : sourceWord ty s k = .ok pa)
    (hdest : destWord ty s k = .ok pb) (mem : Memory) : moveOne ty s k mem = .ok (mem.writeWord pb (mem.readWord pa)) := by
  rw [moveOne_eq hty, hsource, ok_bind, hdest]
  rfl

theorem moveOne_error (hty : ty.toNat ≤ 8)
    (h : sourceWord ty s k = .error f ∨ (∃ pa, sourceWord ty s k = .ok pa) ∧ destWord ty s k = .error f) (mem : Memory) :
    moveOne ty s k mem = .error f := by
  rw [moveOne_eq hty]
  rcases h with hsource | ⟨⟨pa, hsource⟩, hdest⟩
  · rw [hsource, error_bind]
  · rw [hsource, ok_bind, hdest, error_bind]

/-- The words of memory as the moves leave them. -/
def MovesWords (s t : State) (n : Nat) (from' to' : Nat → PhysAddr) : Prop :=
  ∃ words : Nat → PhysAddr → Word,
    words 0 = s.mem.readWord ∧
    (∀ k, k < n → ∀ pa, words (k + 1) pa = if pa = to' k then words k (from' k) else words k pa) ∧
    HoldsWords s t (words n)

theorem walk_moveOne {n : Nat} (hty : ty.toNat ≤ 8) (hwf : s.mem.wf = true)
    (hends : ∀ k, k < n → sourceWord ty s k = .ok (from' k) ∧ destWord ty s k = .ok (to' k)) :
    ∃ mem, walk (moveOne ty s) n 0 s.mem = .ok mem ∧ ∀ t : State, t.mem = mem → MovesWords s t n from' to' := by
  obtain ⟨mem, words, hwalk, hrewritten, hfirst, hlast, hsteps⟩ :=
    walk_ok (write := moveOne ty s) (w := to') (v := fun k words => words (from' k)) n 0 s.mem hwf fun k _ hk m => by
      obtain ⟨hsource, hdest⟩ := hends k (by omega)
      exact moveOne_ok hty hsource hdest m
  simp only [Nat.zero_add] at hsteps
  refine ⟨mem, hwalk, fun t ht => ⟨words, hfirst, hsteps, fun pa => ?_, fun k hk => ?_⟩⟩
  · rw [ht, hlast]
  · rw [ht, hrewritten.high k hk]

end Moves

/-! ## MOVEW -/

section Movew

variable {s : State} {ty : BitVec 6} {f : Fault}

/-- The transfer may be made: the privileged types are those with a physical end. -/
def MoveLegal (ty : BitVec 6) (s : State) : Prop :=
  privOk s = true ∨ (decide (6 ≤ ty.toNat) = false ∧ decide (ty.toNat % 3 = 2) = false)

theorem exec_movew_illegal (hty : 8 < ty.toNat) :
    exec (.movew ty) s = .fault (.illegalInstruction (encode s.params.opcodes (.movew ty))) := by
  have hbad : movewOk ty = false := Bool.eq_false_iff.mpr (mt (movewOk_iff ty).mp (by omega))
  have hexec : exec (.movew ty) s = execMovew ty s := rfl
  rw [hexec, execMovew, hbad]
  rfl

theorem exec_movew_legal (hty : ty.toNat ≤ 8) (hlegal : MoveLegal ty s) :
    exec (.movew ty) s = finish (moveBlock ty s) := by
  have hok := (movewOk_iff ty).mpr hty
  have hexec : exec (.movew ty) s = execMovew ty s := rfl
  rw [hexec, execMovew, hok]
  cases hphysical : movePrivileged ty with
  | false => rfl
  | true =>
    have hpriv : privOk s = true := hlegal.resolve_right fun ⟨hsource, hdest⟩ => by
      have hends := (movePrivileged_iff hty).mp hphysical
      simp only [decide_eq_false_iff_not] at hsource hdest
      exact hends.elim hsource hdest
    rw [requirePrivilege_of_ok hpriv]
    rfl

theorem moveBlock_of_gt (h : 2048 < s.cur.l.toNat) : moveBlock ty s = .ok s.advance := if_pos h

/-- The registers after a move (R432). -/
def movedRegs (ty : BitVec 6) (s : State) : Regs :=
  { s.cur with
    p := s.cur.p + 1, l := 0, d := s.cur.d + BitVec.ofNat 16 s.cur.l.toNat
    t := s.cur.t + BitVec.ofNat 16 s.cur.l.toNat
    a := movedBank (Machine.moveSource ty) s.cur.a s.cur.d s.cur.l.toNat
    x := movedBank (Machine.moveDest ty) s.cur.x s.cur.t s.cur.l.toNat }

theorem moveBlock_of_le (h : s.cur.l.toNat ≤ 2048) : moveBlock ty s = do
    let mem ← walk (moveOne ty s) s.cur.l.toNat 0 s.mem
    return { s.setCur (movedRegs ty s) with mem := mem } := if_neg (Nat.not_lt.mpr h)

theorem movedRegs_eq (hty : ty.toNat ≤ 8) (s : State) : movedRegs ty s =
    { s.cur with
      p := s.cur.p + 1, l := 0, d := s.cur.d + BitVec.ofNat 16 s.cur.l.toNat
      t := s.cur.t + BitVec.ofNat 16 s.cur.l.toNat
      a := if decide (6 ≤ ty.toNat) = true ∧ 65536 ≤ s.cur.d.toNat + s.cur.l.toNat then s.cur.a + 1 else s.cur.a
      x := if decide (ty.toNat % 3 = 2) = true ∧ 65536 ≤ s.cur.t.toNat + s.cur.l.toNat then s.cur.x + 1
        else s.cur.x } := by
  simp only [movedRegs, movedBank, moveSource_physical hty, moveDest_physical, decide_eq_true_eq]
  rfl

theorem completes_movew {from' to' : Nat → PhysAddr} (hty : ty.toNat ≤ 8) (hn : s.cur.l.toNat ≤ 2048)
    (hlegal : MoveLegal ty s) (hwf : s.mem.wf = true)
    (hends : ∀ k, k < s.cur.l.toNat → sourceWord ty s k = .ok (from' k) ∧ destWord ty s k = .ok (to' k)) :
    Completes (.movew ty) s fun t =>
      SetsRegisters { s with mem := t.mem } t (movedRegs ty s) ∧ MovesWords s t s.cur.l.toNat from' to' := by
  obtain ⟨mem, hwalk, hmoves⟩ := walk_moveOne hty hwf hends
  exact .ok (exec_movew_legal hty hlegal) (by rw [moveBlock_of_le hn, hwalk]; rfl)
    ⟨setsRegisters_setCur { s with mem := mem } _, hmoves _ rfl⟩

theorem movew_fault {k : Nat} (hty : ty.toNat ≤ 8) (hn : s.cur.l.toNat ≤ 2048) (hlegal : MoveLegal ty s)
    (hk : k < s.cur.l.toNat)
    (hbefore : ∀ j, j < k → (∃ pa, sourceWord ty s j = .ok pa) ∧ ∃ pa, destWord ty s j = .ok pa)
    (hfails : sourceWord ty s k = .error f ∨ (∃ pa, sourceWord ty s k = .ok pa) ∧ destWord ty s k = .error f) :
    exec (.movew ty) s = .fault f := by
  have hwalk : walk (moveOne ty s) s.cur.l.toNat 0 s.mem = .error f :=
    walk_error_of_first hk
      (fun j hj m => by
        obtain ⟨⟨pa, hsource⟩, pb, hdest⟩ := hbefore j hj
        exact ⟨_, moveOne_ok hty hsource hdest m⟩)
      (moveOne_error hty hfails)
  rw [exec_movew_legal hty hlegal, moveBlock_of_le hn, hwalk]
  rfl

end Movew

/-- Settles O59: the move by the walk over its words, the first end that fails, both ends with all memory in reach, a greater L,
and the reserved types. -/
theorem wordBlockMove : Obligations.WordBlockMove := by
  unfold Obligations.WordBlockMove
  intro ty s n fromPhysical toPhysical legal source dest
  refine ⟨fun from' to' hty hn hlegal hwf hends => ?moves, fun k f hty hn hlegal hk => movew_fault hty hn hlegal hk,
    fun hready hty k => ⟨?source, endWord_of_allReady hready _⟩, fun hty hn hlegal => ?greater, exec_movew_illegal⟩
  case moves =>
    have hmoved := completes_movew hty hn hlegal hwf hends
    rw [movedRegs_eq hty] at hmoved
    exact hmoved
  case source =>
    have hphysical : fromPhysical = decide (ty.toNat / 3 = 2) := decide_eq_decide.mpr (by omega)
    rw [hphysical]
    exact endWord_of_allReady hready _
  case greater => exact .ok (exec_movew_legal hty hlegal) (moveBlock_of_gt hn) (setsRegisters_advance s)

end Sys2Proof.Proofs
end
